-- ==== Sys2Proof/Word.lean ====
section
/-! DEFINITION. The widths of the DM_CONTROL codec: 00_scope.md rule R12 (u8, u16, u32, f32 as its pattern). -/

namespace Sys2Proof

/-- A byte is 8 bits (R11). -/
abbrev Byte := BitVec 8

/-- A 32-bit word of the command port, of the register cache and of a register of the motor (R12). -/
abbrev Word := BitVec 32

/-- A 16-bit id: an arbitration id, `ID[s]`, `MASTER_ID[s]`, a mode offset (R12, R52). -/
abbrev Id16 := BitVec 16

/-- An `f32` is always carried as its 32-bit pattern (R12): `fbits` and `ffrom` are the identity here. -/
abbrev F32 := BitVec 32

end Sys2Proof
end

