-- ==== Sys2Proof/Config.lean ====
section
/-! DEFINITION. What the spec leaves to the implementation: the parameters of 00_scope.md rules R5 to R7, the
configuration inputs of 10_state.md rule R22, the vector set `VP` of rule R9 as ONE example value of them, and the
free value of 93_implementation_defined.md U6. -/

namespace Sys2Proof

/-- The value type of a register of the motor: the `ty` column of `REG_TABLE` (R7, R168). -/
inductive RegType where
  | f32 | u32
deriving DecidableEq, Repr

/-- One entry of `REG_TABLE`: a pair `(rid : u8, ty : F32 or U32)` (R7). -/
structure RegEntry where
  rid : Byte
  ty : RegType
deriving DecidableEq, Repr

/-- `RX_MAP`, a function from u16 to an optional slot (R7). State is plain data, so the function is written as data:
the default of R7, or a finite table of `(id, slot)` pairs of which the first that names the id counts. u16 is finite,
so every function is such a table (log 3). -/
inductive RxMap where
  /-- The default: the lowest slot `s` with `MASTER_ID[s]` equal to the arbitration id. -/
  | byMasterId
  /-- Any other function, as its list of pairs; an id the list does not name maps to no slot. -/
  | table (pairs : List (Id16 × Nat))
deriving DecidableEq, Repr

/-- The parameters of the build: R6 and R7. `NREG` (R5) is the length of `REG_TABLE`, `NMOTOR` the number of Motor
records. They are held in State because `step` has no other argument; no step changes them (log 2). -/
structure Params where
  offMit : Id16
  offPos : Id16
  offSpd : Id16
  offPsc : Id16
  kpMin : F32
  kpMax : F32
  kdMin : F32
  kdMax : F32
  mgmtId : Id16
  regTable : List RegEntry
  rxMap : RxMap
deriving DecidableEq, Repr

/-- `NREG`, the number of entries of the register enumeration (R5). -/
def Params.nreg (p : Params) : Nat := p.regTable.length

/-- The configuration inputs of one slot (R22): constant from one release of `rst` to the next (R26, R241). -/
structure SlotConfig where
  id : Id16
  masterId : Id16
  pMax : F32
  vMax : F32
  tMax : F32
deriving DecidableEq, Repr

/-- DESIGN CHOICE (log 2), unsafe: the parameters of the vector set `VP` (R9, not normative), as an example value. -/
def Params.vectors : Params where
  offMit := 0x000
  offPos := 0x100
  offSpd := 0x200
  offPsc := 0x300
  kpMin := 0x00000000
  kpMax := 0x43FA0000
  kdMin := 0x00000000
  kdMax := 0x40A00000
  mgmtId := 0x7FF
  regTable := [⟨0x15, .f32⟩, ⟨0x0A, .u32⟩, ⟨0x17, .f32⟩]
  rxMap := .byMasterId

/-- DESIGN CHOICE (log 2), unsafe: the configuration inputs of the two slots of `VP` (R9, not normative). -/
def SlotConfig.vectors : List SlotConfig :=
  [⟨0x0001, 0x0000, 0x41480000, 0x41F00000, 0x41200000⟩,
   ⟨0x0002, 0x0012, 0x41480000, 0x41F00000, 0x41200000⟩]

/-- FREE VALUE (93_implementation_defined.md U6, log 6): the pattern from which the NaN that a `QDEC` returns is made,
a function of the four operands (R116: "their results depend on their four operands alone"). It has no body: nothing
can be proved of its value. -/
opaque Config.freeNaN : (raw : Word) → (lo hi : F32) → (bits : Byte) → F32

end Sys2Proof
end

