-- ==== Sys2Proof/Machine/Binary32.lean ====
section
/-! DEFINITION. IEEE 754 binary32 arithmetic: 00_scope.md rules R12, R14, R15. Every finite pattern is a whole number
of units of `2^-149`, so each operation is computed exactly on whole numbers and rounded once. -/

namespace Sys2Proof.Machine

/-! ## The fields of a pattern (R12) -/

/-- Bit 31: the value is negative, or `-0.0`. -/
def fsign (x : F32) : Bool := x.getLsbD 31

/-- Bits 30:23. -/
def fexp (x : F32) : Nat := (x.extractLsb' 23 8).toNat

/-- Bits 22:0. -/
def ffrac (x : F32) : Nat := (x.extractLsb' 0 23).toNat

/-- Exponent all ones, fraction not zero (R14). -/
def isNaN (x : F32) : Bool := fexp x == 255 && ffrac x != 0

/-- Exponent all ones, fraction zero. -/
def isInf (x : F32) : Bool := fexp x == 255 && ffrac x == 0

/-- Neither a NaN nor an infinity. -/
def isFinite (x : F32) : Bool := fexp x != 255

/-- The magnitude of a finite pattern in units of `2^-149`: a subnormal is its fraction, a normal has the hidden bit.
(For an infinity it is `2^277`, above every finite magnitude.) -/
def fmag (x : F32) : Nat := if fexp x = 0 then ffrac x else (2 ^ 23 + ffrac x) * 2 ^ (fexp x - 1)

/-- The signed value of a finite pattern in units of `2^-149`. -/
def fscaled (x : F32) : Int := if fsign x then -(fmag x : Int) else fmag x

/-! ## Rounding (R14: to nearest, ties to even, subnormals kept) -/

/-- `n / d` rounded to the nearest whole number, a tie to the even one. -/
def divNearestEven (n d : Nat) : Nat :=
  if 2 * (n % d) < d then n / d
  else if d < 2 * (n % d) then n / d + 1
  else n / d + n / d % 2

/-- The place of the last of 24 significant bits of the magnitude `n / d`, in units of `2^-149`: 0 for the subnormals
and the least normals. -/
def roundShift (n d : Nat) : Nat := Nat.log2 (n / d) - 23

/-- The magnitude pattern (bits 30:0) nearest to `n / d` units of `2^-149`. A significand that rounds up to `2^24`
carries into the exponent; what is too large becomes infinity, `0x7F800000`. -/
def roundPattern (n d : Nat) : Nat :=
  min (roundShift n d * 2 ^ 23 + divNearestEven n (d * 2 ^ roundShift n d)) 0x7F800000

/-- A sign bit on a magnitude pattern. -/
def withSign (neg : Bool) (pattern : Nat) : F32 := BitVec.ofNat 32 (pattern + if neg then 2 ^ 31 else 0)

/-- The signed infinity. -/
def infinity (neg : Bool) : F32 := withSign neg 0x7F800000

/-! ## The operations (R14). `none` is a NaN: "the payload and sign of a produced NaN are not specified". -/

/-- `fneg` flips bit 31 and is exact. -/
def fneg (x : F32) : F32 := x ^^^ 0x80000000

/-- The rounded sum of two finite values. An exact zero is `+0.0`, but `-0.0` for two negative zeros. -/
def addFinite (a b : F32) : F32 :=
  if fscaled a + fscaled b = 0 then withSign (fsign a && fsign b) 0
  else withSign (fscaled a + fscaled b < 0) (roundPattern (fscaled a + fscaled b).natAbs 1)

/-- `fadd` (R14). -/
def fadd (a b : F32) : Option F32 :=
  if isNaN a || isNaN b then none
  else if isInf a then (if isInf b && (fsign a != fsign b) then none else some a)
  else if isInf b then some b
  else some (addFinite a b)

/-- `fsub` (R14): the sum with the second operand's sign flipped. -/
def fsub (a b : F32) : Option F32 := fadd a (fneg b)

/-- `fmul` (R14): `0 * inf` is a NaN; the sign is the product sign. -/
def fmul (a b : F32) : Option F32 :=
  if isNaN a || isNaN b then none
  else if isInf a || isInf b then
    (if fmag a = 0 || fmag b = 0 then none else some (infinity (fsign a != fsign b)))
  else some (withSign (fsign a != fsign b) (roundPattern (fmag a * fmag b) (2 ^ 149)))

/-- `fdiv` (R14): `0/0` and `inf/inf` are NaNs; a finite non-zero value divided by zero is an infinity. -/
def fdiv (a b : F32) : Option F32 :=
  if isNaN a || isNaN b then none
  else if isInf a then (if isInf b then none else some (infinity (fsign a != fsign b)))
  else if isInf b then some (withSign (fsign a != fsign b) 0)
  else if fmag b = 0 then
    (if fmag a = 0 then none else some (infinity (fsign a != fsign b)))
  else some (withSign (fsign a != fsign b) (roundPattern (fmag a * 2 ^ 149) (fmag b)))

/-- `fle`: the IEEE comparison, false if an operand is a NaN; the two zeros are equal. -/
def fle (a b : F32) : Bool := !isNaN a && !isNaN b && decide (fscaled a ≤ fscaled b)

/-- `flt`, likewise for "less than". -/
def flt (a b : F32) : Bool := !isNaN a && !isNaN b && decide (fscaled a < fscaled b)

/-- `u2f`: an unsigned integer below `2^24` as the f32 of the same value, exactly (R14, R103). -/
def u2f (n : Nat) : F32 := withSign false (roundPattern (n * 2 ^ 149) 1)

/-! ## Truncation and saturation (R15) -/

/-- `trunc`: the integer part of a finite value, rounding toward zero. -/
def ftrunc (x : F32) : Int := (fscaled x).tdiv (2 ^ 149)

/-- `sat_trunc(t, N)` on a value that is not a NaN (R15): the pair `(q, clipped)`. -/
def satTruncValue (t : F32) (n : Nat) : Nat × Bool :=
  if isInf t then (if fsign t then (0, true) else (n, true))
  else if ftrunc t < 0 then (0, true)
  else if (n : Int) < ftrunc t then (n, true)
  else ((ftrunc t).toNat, false)

/-- `sat_trunc(t, N)` (R15): a NaN gives `(0, true)`. -/
def satTrunc (t : Option F32) (n : Nat) : Nat × Bool :=
  match t with
  | none => (0, true)
  | some x => if isNaN x then (0, true) else satTruncValue x n

/-- A NaN made of a free pattern: the pattern itself if it is one of the NaN patterns, else a quiet NaN; so every NaN
pattern is possible and nothing else is (93_implementation_defined.md U6, log 6). -/
def asNaN (x : F32) : F32 := if isNaN x then x else 0x7FC00000

end Sys2Proof.Machine
end

