-- ==== Sys2Proof/Syntax.lean ====
section
/-! DEFINITION. What travels on the ports and the 18 operations: 00_scope.md rule R11, 30_encoding.md rules R70 to
R72. One constructor of `Instr` per row of opcode_table.json. -/

namespace Sys2Proof

/-- The eight data bytes `B0..B7` of the TX and RX ports (R11, R70, R71). -/
structure Payload where
  b0 : Byte
  b1 : Byte
  b2 : Byte
  b3 : Byte
  b4 : Byte
  b5 : Byte
  b6 : Byte
  b7 : Byte
deriving DecidableEq, Repr

/-- `control_mode` (R12, R27): the 2-bit field has four codes, all legal. -/
inductive Mode where
  | mit | position | speed | positionSpeedCurrent
deriving DecidableEq, Repr

/-- What the host drives in a command transaction: `op` (5 bits), `slot` (8 bits), six operand words (R70). -/
structure Command where
  op : BitVec 5
  slot : Byte
  a0 : Word
  a1 : Word
  a2 : Word
  a3 : Word
  a4 : Word
  a5 : Word
deriving DecidableEq, Repr

/-- What the transport drives in an RX transaction: `rx_id`, `rx_len` (0..15), `rx_data` (R71). -/
structure RxFrame where
  id : Id16
  len : BitVec 4
  data : Payload
deriving DecidableEq, Repr

/-- One word offered to the block: on the command port or on the RX port (R70, R71). -/
inductive PortWord where
  | cmd (c : Command)
  | rx (f : RxFrame)
deriving DecidableEq, Repr

/-- The 18 operations of R72, one constructor per row of opcode_table.json. Operands are the raw fields of the port
word: a value R89 calls illegal can be written, and the operation's meaning refuses it. -/
inductive Instr where
  /-- `QENC value, min, max, bits` (R105). -/
  | qenc (value lo hi : F32) (bits : Byte)
  /-- `QDEC raw, min, max, bits` (R111). -/
  | qdec (raw : Word) (lo hi : F32) (bits : Byte)
  /-- `SETMODE slot, mode` with `a0[7:0]` the code (R190). -/
  | setmode (slot : Byte) (code : Byte)
  /-- `SETTGT slot, pos, vel, kp, kd, torque, current` (R191). -/
  | settgt (slot : Byte) (pos vel kp kd torque current : F32)
  /-- `CTRL slot` when `M[slot].mode = Mit` (R122). -/
  | ctrlMit (slot : Byte)
  /-- `CTRL slot` when `M[slot].mode = Position` (R124). -/
  | ctrlPos (slot : Byte)
  /-- `CTRL slot` when `M[slot].mode = Speed` (R126). -/
  | ctrlSpd (slot : Byte)
  /-- `CTRL slot` when `M[slot].mode = PositionSpeedCurrent` (R129). -/
  | ctrlPsc (slot : Byte)
  /-- `CLRERR slot` (R145). -/
  | clrerr (slot : Byte)
  /-- `ENABLE slot` (R142). -/
  | enable (slot : Byte)
  /-- `DISABLE slot` (R143). -/
  | disable (slot : Byte)
  /-- `SAVEZERO slot` (R144). -/
  | savezero (slot : Byte)
  /-- `REGRD slot, rid` (R161). -/
  | regrd (slot : Byte) (rid : Byte)
  /-- `REGWR slot, rid, data` (R163). -/
  | regwr (slot : Byte) (rid : Byte) (data : Word)
  /-- `REGSAVE slot` (R165). -/
  | regsave (slot : Byte)
  /-- `SCANSTART slot` (R177). -/
  | scanstart (slot : Byte)
  /-- An RX transaction of 8 bytes whose `B2` is not `0x33`: the feedback stage alone (R154, R193). -/
  | rxFb (rxId : Id16) (data : Payload)
  /-- An RX transaction of 8 bytes whose `B2` is `0x33`: the feedback stage, then the register stage (R167, R193). -/
  | rxRsp (rxId : Id16) (data : Payload)
deriving DecidableEq, Repr

end Sys2Proof
end

