-- ==== Sys2Proof/Machine/State.lean ====
section
/-! DEFINITION. The state of the block: 10_state.md rules R22 to R36, with the reset values of rule R44; the reset
input of 70_reset_and_hazards.md rule R240; and the wires of the ports (30_encoding.md rules R70, R71). -/

namespace Sys2Proof.Machine

/-- `M[s].tgt`, the six f32 patterns of `control_target` (R28). -/
structure Target where
  pos : F32
  vel : F32
  kp : F32
  kd : F32
  torque : F32
  current : F32
deriving DecidableEq, Repr

/-- `M[s].fb`, the last feedback: raw fields R29, decoded fields R30, temperatures R31, nibbles R32. R154 says eleven
fields and lists these ten (log 14). -/
structure Feedback where
  rawPos : BitVec 16
  rawVel : BitVec 12
  rawTor : BitVec 12
  pos : F32
  vel : F32
  tor : F32
  tMos : F32
  tCoil : F32
  state : Byte
  idEcho : Byte
deriving DecidableEq, Repr

/-- The Motor record of a slot (R22): its configuration inputs, then its mutable state. -/
structure Motor where
  /-- `ID`, `MASTER_ID`, `P_MAX`, `V_MAX`, `T_MAX` (R23 to R25), as sampled at the last release of `rst` (R241). -/
  cfg : SlotConfig
  /-- `M[s].mode` (R27). -/
  mode : Mode
  /-- `M[s].tgt` (R28). -/
  tgt : Target
  /-- `M[s].fb` (R29 to R33). -/
  fb : Feedback
  /-- `M[s].cache`: the word of entry `n` of `REG_TABLE`, `n` from 1, is at index `n - 1` (R34). -/
  cache : List Word
  /-- `M[s].cursor`: 0 is `Idle`, `n` is `Reading(n)` (R36, R175). -/
  cursor : Nat
deriving DecidableEq, Repr

/-- A frame on the TX port: `tx_id`, `tx_len`, `tx_data` (R11, R70). -/
structure Frame where
  id : Id16
  len : BitVec 4
  data : Payload
deriving DecidableEq, Repr

/-- The conditions of one transaction, a bit of the status word each (R210). -/
structure Flags where
  ill : Bool := false
  ovf : Bool := false
  txErr : Bool := false
  drop : Bool := false
  desync : Bool := false
  adv : Bool := false
deriving DecidableEq, Repr

/-- What a transaction returns at the ports: a command's `result` (an RX transaction has none, R71, R72), the `status`
word (R210), and the at most one frame presented on the TX port (R16, R70). -/
structure Response where
  result : Option Word
  status : BitVec 8
  frame : Option Frame
deriving DecidableEq, Repr

/-- What the outside world offers the block next (log 1, log 7). -/
inductive Event where
  /-- A command or a received frame, with the answer `tx_fail` the transport gives if the transaction emits a frame
  (R70, R71; 93_implementation_defined.md U8). -/
  | transaction (w : PortWord) (txFail : Bool)
  /-- `rst` becomes asserted (R240). -/
  | assertReset
  /-- `rst` is released with these configuration inputs driven, slot 0 first (R240, R241). -/
  | releaseReset (cfgs : List SlotConfig)
deriving DecidableEq, Repr

/-- The state of the machine. The spec's own state is `motors` (R45: "Rules R22 to R36 list all the state"). -/
structure State where
  /-- The parameters of the build, constant (R5 to R7, log 2). -/
  par : Params
  /-- The registry: one Motor record per slot, index = slot (R22). Its length is `NMOTOR`. -/
  motors : List Motor
  /-- The level of the reset input (R240, log 7). -/
  rst : Bool
  /-- The transport's answer to the frame of the transaction in progress (R70, log 5): an input, not stored state. -/
  txFail : Bool
  /-- What is offered at the ports from now on, in the serial order taken (R63, R220, log 1): inputs, not a queue of
  the block. -/
  inputs : List Event
  /-- The outputs of the last step's transaction, if it performed one (log 4): wires, read by no rule. -/
  resp : Option Response
deriving DecidableEq, Repr

/-- `NMOTOR`, the number of slots (R5). -/
def State.nmotor (s : State) : Nat := s.motors.length

/-- Why a step can stop with a fault. -/
inductive Fault where
  /-- The sequencer needed an entry that `REG_TABLE` does not have: an empty table, or a cursor above `NREG`. Raised by
  `SCANSTART` and by `RX.RSP`. Both are excluded by R5 and R36 and by every reachable state of a legal parameter set,
  so it is safe (log 13). -/
  | noRegisterEntry
deriving DecidableEq, Repr

/-- Why a step can be refused. -/
inductive Refusal where
  /-- An operation of the table that has no meaning yet. Safe: nothing is claimed of it. No arm uses it. -/
  | notModelled (mnemonic : String)
deriving DecidableEq, Repr

/-- What a step of this machine answers. -/
abbrev Answer := Host.Outcome State Fault Refusal

/-! ## Reset values (R44) -/

/-- All six targets `+0.0` (R44; also what `DISABLE` leaves, R143). -/
def Target.zero : Target := ⟨0, 0, 0, 0, 0, 0⟩

/-- All feedback fields zero (R44): not a decoded frame. -/
def Feedback.zero : Feedback := ⟨0, 0, 0, 0, 0, 0, 0, 0, 0, 0⟩

/-- A record as reset leaves it (R44): `Mit`, targets and feedback zero, `nreg` cache words zero, cursor `Idle`. -/
def Motor.reset (nreg : Nat) (cfg : SlotConfig) : Motor where
  cfg := cfg
  mode := .mit
  tgt := Target.zero
  fb := Feedback.zero
  cache := List.replicate nreg 0
  cursor := 0

/-- The machine right after the release of `rst`, for any parameters and configuration inputs (R44, R240). Nothing is
offered at the ports (log 1) and nothing has been returned. -/
def State.resetWith (par : Params) (cfgs : List SlotConfig) : State where
  par := par
  motors := cfgs.map (Motor.reset par.nreg)
  rst := false
  txFail := false
  inputs := []
  resp := none

/-- The machine right after reset, for the example parameters `VP` of R9 (DESIGN CHOICE, log 2): no statement rests on
them. -/
def State.reset : State := State.resetWith Params.vectors SlotConfig.vectors

end Sys2Proof.Machine
end

