-- ==== Sys2Proof/Machine/Flags.lean ====
section
/-! DEFINITION. The status word: 60_exceptions.md rule R210. -/

namespace Sys2Proof.Machine

/-- The 8-bit `status` of a transaction (R210): bit 0 `ill`, 1 `ovf`, 2 `tx_err`, 3 `drop`, 4 `desync`, 5 `adv`, bits
7:6 always 0. It is built afresh by each transaction. -/
def statusWord (f : Flags) : BitVec 8 :=
  0b00#2 ++ BitVec.ofBool f.adv ++ BitVec.ofBool f.desync ++ BitVec.ofBool f.drop ++ BitVec.ofBool f.txErr
    ++ BitVec.ofBool f.ovf ++ BitVec.ofBool f.ill

end Sys2Proof.Machine
end

