-- ==== Sys2Proof/Machine/Operands.lean ====
section
/-! DEFINITION. The fields of operands and payloads: the helpers of 00_scope.md rule R17, the wire formats of
30_encoding.md rules R73 to R82 and R87, the mode codes of 10_state.md rule R27, the ids of 20_memory.md rule R62. -/

namespace Sys2Proof.Machine

/-! ## Little-endian values (R17, R56) -/

/-- Byte `k` of a 32-bit value, byte 0 the least significant. -/
def leByte (w : Word) (k : Nat) : Byte := w.extractLsb' (8 * k) 8

/-- `id_low`, and the first byte of `le16`. -/
def lowByte16 (v : BitVec 16) : Byte := v.extractLsb' 0 8

/-- `id_high`, and the second byte of `le16`. -/
def highByte16 (v : BitVec 16) : Byte := v.extractLsb' 8 8

/-- `from_le32(b0, b1, b2, b3) = {b3, b2, b1, b0}`. -/
def fromLe32 (b0 b1 b2 b3 : Byte) : Word := b3 ++ b2 ++ b1 ++ b0

/-! ## Outbound payloads -/

/-- A 4-byte payload: `B4..B7` of the port are driven `0x00` (R83). -/
def shortPayload (b0 b1 b2 b3 : Byte) : Payload := ⟨b0, b1, b2, b3, 0, 0, 0, 0⟩

/-- F-MIT (R73, R121): the five fields, most significant bit first, cut into bytes. -/
def mitPayload (p : BitVec 16) (v kp kd t : BitVec 12) : Payload where
  b0 := p.extractLsb' 8 8
  b1 := p.extractLsb' 0 8
  b2 := v.extractLsb' 4 8
  b3 := v.extractLsb' 0 4 ++ kp.extractLsb' 8 4
  b4 := kp.extractLsb' 0 8
  b5 := kd.extractLsb' 4 8
  b6 := kd.extractLsb' 0 4 ++ t.extractLsb' 8 4
  b7 := t.extractLsb' 0 8

/-- F-POS (R74): `lef32(pos) ++ lef32(vel)`. -/
def posPayload (pos vel : F32) : Payload where
  b0 := leByte pos 0
  b1 := leByte pos 1
  b2 := leByte pos 2
  b3 := leByte pos 3
  b4 := leByte vel 0
  b5 := leByte vel 1
  b6 := leByte vel 2
  b7 := leByte vel 3

/-- F-SPD (R75): `lef32(vel)`, 4 bytes. -/
def spdPayload (vel : F32) : Payload := shortPayload (leByte vel 0) (leByte vel 1) (leByte vel 2) (leByte vel 3)

/-- F-PSC (R76): `lef32(pos) ++ le16(v16) ++ le16(i16)`. -/
def pscPayload (pos : F32) (v16 i16 : BitVec 16) : Payload where
  b0 := leByte pos 0
  b1 := leByte pos 1
  b2 := leByte pos 2
  b3 := leByte pos 3
  b4 := lowByte16 v16
  b5 := highByte16 v16
  b6 := lowByte16 i16
  b7 := highByte16 i16

/-- F-SENT (R77, R140): seven `0xFF` bytes and the command byte. -/
def sentinelPayload (c : Byte) : Payload := ⟨0xFF, 0xFF, 0xFF, 0xFF, 0xFF, 0xFF, 0xFF, c⟩

/-- F-RRD (R78): `[id_low, id_high, 0x33, rid]`. -/
def readPayload (id : Id16) (rid : Byte) : Payload := shortPayload (lowByte16 id) (highByte16 id) 0x33 rid

/-- F-RWR (R79): `[id_low, id_high, 0x55, rid] ++ le32(data)`. -/
def writePayload (id : Id16) (rid : Byte) (data : Word) : Payload where
  b0 := lowByte16 id
  b1 := highByte16 id
  b2 := 0x55
  b3 := rid
  b4 := leByte data 0
  b5 := leByte data 1
  b6 := leByte data 2
  b7 := leByte data 3

/-- F-RSV (R80): `[id_low, id_high, 0xAA, 0x01]`. -/
def savePayload (id : Id16) : Payload := shortPayload (lowByte16 id) (highByte16 id) 0xAA 0x01

/-! ## Inbound fields (R81, R82, R87, R151, R167) -/

/-- `ide = B0[3:0]`, zero-extended as it is stored. -/
def cutIdEcho (p : Payload) : Byte := (p.b0.extractLsb' 0 4).setWidth 8

/-- `st = B0[7:4]`, zero-extended as it is stored. -/
def cutState (p : Payload) : Byte := (p.b0.extractLsb' 4 4).setWidth 8

/-- `rp = {B1, B2}`: `B1` is the high byte. -/
def cutRawPos (p : Payload) : BitVec 16 := p.b1 ++ p.b2

/-- `rv = {B3, B4[7:4]}`. -/
def cutRawVel (p : Payload) : BitVec 12 := p.b3 ++ p.b4.extractLsb' 4 4

/-- `rt = {B4[3:0], B5}`. -/
def cutRawTor (p : Payload) : BitVec 12 := p.b4.extractLsb' 0 4 ++ p.b5

/-- `rid = B3` of a read-response. -/
def cutRid (p : Payload) : Byte := p.b3

/-- `val = from_le32(B4, B5, B6, B7)` of a read-response. -/
def cutValue (p : Payload) : Word := fromLe32 p.b4 p.b5 p.b6 p.b7

/-! ## Codes and ids -/

/-- The 2-bit code of a mode (R27). -/
def modeCode : Mode → BitVec 2
  | .mit => 0
  | .position => 1
  | .speed => 2
  | .positionSpeedCurrent => 3

/-- The mode of a code byte `a0[7:0]`: a code above 3 is none (R190, R89 (c)). -/
def modeOfCode (c : Byte) : Option Mode :=
  if c = 0 then some .mit
  else if c = 1 then some .position
  else if c = 2 then some .speed
  else if c = 3 then some .positionSpeedCurrent
  else none

/-- `off(mode)` (R84). -/
def modeOffset (p : Params) : Mode → Id16
  | .mit => p.offMit
  | .position => p.offPos
  | .speed => p.offSpd
  | .positionSpeedCurrent => p.offPsc

/-- `dest(s, off) = (ID[s] + off) mod 2^16` (R62). -/
def dest (id off : Id16) : Id16 := id + off

end Sys2Proof.Machine
end

