-- ==== Sys2Proof/Machine/Ops.lean ====
section
/-! DEFINITION. The named operations over the state: a slot's record, the completion of a transaction with its status
word (what this block has in place of an exception, 60_exceptions.md rules R210 to R223), emitting a frame, refusing
and dropping (00_scope.md rule R16), the map of received ids (rule R7), the reset (70_reset_and_hazards.md R240). -/

namespace Sys2Proof.Machine

/-! ## Writing a Motor record (R13, R198) -/

/-- `M[s].mode <- mode`. -/
def Motor.withMode (m : Motor) (mode : Mode) : Motor := { m with mode := mode }

/-- `M[s].tgt.* <- tgt`, all six at once. -/
def Motor.withTgt (m : Motor) (tgt : Target) : Motor := { m with tgt := tgt }

/-- `M[s].fb.* <- fb`, "overwritten wholesale" (R33). -/
def Motor.withFb (m : Motor) (fb : Feedback) : Motor := { m with fb := fb }

/-- `M[s].cursor <- n`. -/
def Motor.withCursor (m : Motor) (n : Nat) : Motor := { m with cursor := n }

/-- `M[s].cache[n] <- v`, `n` from 1 (R34). -/
def Motor.withCacheWord (m : Motor) (n : Nat) (v : Word) : Motor := { m with cache := m.cache.set (n - 1) v }

/-- Write back the record of slot `k`. -/
def State.setMotor (s : State) (k : Nat) (m : Motor) : State := { s with motors := s.motors.set k m }

/-! ## Completing a transaction -/

/-- Return `result`, the status word of `flags` and the frame presented, if any (R16, R70, R210). -/
def State.complete (s : State) (result : Option Word) (flags : Flags) (frame : Option Frame) : State :=
  { s with resp := some ⟨result, statusWord flags, frame⟩ }

/-- `refuse` (R16, R89, R216): `ill` alone, result 0, no frame, no state change. -/
def State.refuse (s : State) : State := s.complete (some 0) { ill := true } none

/-- `drop` (R16, R194, R215): `drop` alone, no frame, no state change. -/
def State.dropFrame (s : State) : State := s.complete none { drop := true } none

/-- A command that ends without a frame and without a condition, result 0. -/
def State.done (s : State) : State := s.complete (some 0) {} none

/-- `emit` at the end of a command (R16, R212): the frame is presented whatever the transport answers, the answer sets
`tx_err` and nothing else, and the result is 0. -/
def State.emit (s : State) (frame : Frame) (ovf : Bool := false) : State :=
  s.complete (some 0) { ovf := ovf, txErr := s.txFail } (some frame)

/-- A command that names a slot: refused if `slot >= NMOTOR` (R51, R89 (b)), else run on that slot's record. -/
def onSlot (slot : Byte) (s : State) (run : Nat → Motor → Answer) : Answer :=
  match s.motors[slot.toNat]? with
  | some m => run slot.toNat m
  | none => .next s.refuse

/-! ## Frames every family shares -/

/-- A frame of slot `s`'s control path: to `dest(s, off(M[s].mode))` (R84). -/
def modeFrame (p : Params) (m : Motor) (len : BitVec 4) (data : Payload) : Frame :=
  ⟨dest m.cfg.id (modeOffset p m.mode), len, data⟩

/-- A register-protocol frame: to `MGMT_ID`, whatever the slot (R84, R160). -/
def mgmtFrame (p : Params) (len : BitVec 4) (data : Payload) : Frame := ⟨p.mgmtId, len, data⟩

/-- A mode command (R140, R141): emit `SENT(c)` to the id the slot's control frames use. -/
def sendSentinel (c : Byte) (m : Motor) (s : State) : State :=
  s.emit (modeFrame s.par m 8 (sentinelPayload c))

/-! ## Received ids -/

/-- `RX_MAP(id)` (R7). A table entry that names no slot of the registry counts as none (log 3). -/
def rxSlot (s : State) (id : Id16) : Option Nat :=
  match s.par.rxMap with
  | .byMasterId => s.motors.findIdx? (fun m => m.cfg.masterId == id)
  | .table pairs => (pairs.lookup id).filter (fun k => k < s.motors.length)

/-! ## Reset -/

/-- The release of `rst` (R240, R241): every record as R44 says, with the configuration inputs sampled now. A slot the
list does not reach keeps the inputs it had (log 7); the number of slots does not change (R40). -/
def State.releaseReset (s : State) (cfgs : List SlotConfig) : State :=
  { s with
    motors := s.motors.mapIdx (fun k m => Motor.reset s.par.nreg (cfgs.getD k m.cfg))
    rst := false
    resp := none }

end Sys2Proof.Machine
end

