-- ==== Sys2Proof/Machine/Codec.lean ====
section
/-! DEFINITION. The quantity codec, `QENC` and `QDEC`: 40_codec.md rules R100 to R117. -/

namespace Sys2Proof.Machine

/-- `N = 2^bits - 1`. -/
def maxCode (bits : Byte) : Nat := 2 ^ bits.toNat - 1

/-- `t3` of R105: `((value - min) * N) / (max - min)`, each step rounded to binary32, in that order (R101). -/
def quantQuotient (value lo hi : F32) (n : Nat) : Option F32 :=
  (fsub value lo).bind fun t1 =>
  (fmul t1 (u2f n)).bind fun t2 =>
  (fsub hi lo).bind fun span => fdiv t2 span

/-- `value` lies above a range that is not reversed, `min <= max < value` (R107). Reversed limits are R108's: there the code
"is whatever `sat_trunc` gives". -/
def aboveRange (value lo hi : F32) : Bool := fle lo hi && flt hi value

/-- `value` lies below a range that is not reversed, `value < min <= max` (R107). -/
def belowRange (value lo hi : F32) : Bool := fle lo hi && flt value lo

/-- The code of a value, from the code `q` its quotient gives: `N` above the range, 0 below it (R107), else `q` (R105). -/
def rangeCode (value lo hi : F32) (n q : Nat) : Nat :=
  if aboveRange value lo hi then n else if belowRange value lo hi then 0 else q

/-- `QENC(value, min, max, bits)` as a function (R105, R107): the code and `ovf`. Above a range the code is `N`, below it 0.
The pseudocode of R105 alone would give less above a range where its quotient is rounded below `N` or its span overflows,
and the opposite end for limits `+0.0..-0.0`, whose span is `-0.0`; R107, R213, C4 and D13 say that it saturates (DEDUCED,
log 15). -/
def quantEncode (value lo hi : F32) (bits : Byte) : Nat × Bool :=
  let r := satTrunc (quantQuotient value lo hi (maxCode bits)) (maxCode bits)
  (rangeCode value lo hi (maxCode bits) r.1, !(fle lo value && fle value hi) || r.2)

/-- `u3` of R111: `((raw * (max - min)) / N) + min`, each step rounded to binary32, in that order (R101); `none` is a
NaN, of a pattern the spec leaves open (R102). -/
def quantValue (raw : Word) (lo hi : F32) (bits : Byte) : Option F32 :=
  (fsub hi lo).bind fun span =>
  (fmul (u2f raw.toNat) span).bind fun u1 =>
  (fdiv u1 (u2f (maxCode bits))).bind fun u2 => fadd u2 lo

/-- `QDEC(raw, min, max, bits)` as a function (R111). The NaN it may return is the free value of U6 (log 6). -/
def quantDecode (raw : Word) (lo hi : F32) (bits : Byte) : F32 :=
  (quantValue raw lo hi bits).getD (asNaN (Config.freeNaN raw lo hi bits))

/-- `bits` outside 1..16 is illegal (R89 (d)). -/
def illegalWidth (bits : Byte) : Bool := bits.toNat == 0 || 16 < bits.toNat

/-- `QENC` (R105, R107). -/
def execQenc (value lo hi : F32) (bits : Byte) (s : State) : Answer :=
  if illegalWidth bits then .next s.refuse
  else
    let r := quantEncode value lo hi bits
    .next (s.complete (some (BitVec.ofNat 32 r.1)) { ovf := r.2 } none)

/-- `QDEC` (R111). -/
def execQdec (raw : Word) (lo hi : F32) (bits : Byte) (s : State) : Answer :=
  if illegalWidth bits then .next s.refuse
  else if maxCode bits < raw.toNat then .next s.refuse
  else .next (s.complete (some (quantDecode raw lo hi bits)) {} none)

end Sys2Proof.Machine
end

