-- ==== Sys2Proof/Machine/Control.lean ====
section
/-! DEFINITION. The four control frames, `CTRL.MIT`, `CTRL.POS`, `CTRL.SPD`, `CTRL.PSC`: 41_control_frames.md rules
R120 to R132, and their dispatch, 46_registry.md rule R192. -/

namespace Sys2Proof.Machine

/-- The five MIT fields and the OR of their `ovf` (R120, R121): the payload and the flag. -/
def mitFields (p : Params) (cfg : SlotConfig) (t : Target) : Payload × Bool :=
  let pos := quantEncode t.pos (fneg cfg.pMax) cfg.pMax 16
  let vel := quantEncode t.vel (fneg cfg.vMax) cfg.vMax 12
  let kp := quantEncode t.kp p.kpMin p.kpMax 12
  let kd := quantEncode t.kd p.kdMin p.kdMax 12
  let tor := quantEncode t.torque (fneg cfg.tMax) cfg.tMax 12
  (mitPayload (BitVec.ofNat 16 pos.1) (BitVec.ofNat 12 vel.1) (BitVec.ofNat 12 kp.1) (BitVec.ofNat 12 kd.1)
      (BitVec.ofNat 12 tor.1),
    pos.2 || vel.2 || kp.2 || kd.2 || tor.2)

/-- A PSC field (R128): one binary32 multiply by the scale, then `sat_trunc` to a u16. -/
def pscField (x scale : F32) : Nat × Bool := satTrunc (fmul x scale) 65535

/-- The PSC payload and the OR of its two flags (R128, R129): velocity times 100.0, current times 10000.0. -/
def pscFields (t : Target) : Payload × Bool :=
  let v := pscField t.vel 0x42C80000
  let i := pscField t.current 0x461C4000
  (pscPayload t.pos (BitVec.ofNat 16 v.1) (BitVec.ofNat 16 i.1), v.2 || i.2)

/-- The encoder of mode `Mit` (R122): F-MIT, emitted even when a field was saturated. -/
def sendMit (m : Motor) (s : State) : State :=
  let f := mitFields s.par m.cfg m.tgt
  s.emit ⟨dest m.cfg.id s.par.offMit, 8, f.1⟩ f.2

/-- The encoder of mode `Position` (R124): F-POS, patterns copied bit for bit. -/
def sendPos (m : Motor) (s : State) : State :=
  s.emit ⟨dest m.cfg.id s.par.offPos, 8, posPayload m.tgt.pos m.tgt.vel⟩

/-- The encoder of mode `Speed` (R126): F-SPD, 4 bytes. -/
def sendSpd (m : Motor) (s : State) : State :=
  s.emit ⟨dest m.cfg.id s.par.offSpd, 4, spdPayload m.tgt.vel⟩

/-- The encoder of mode `PositionSpeedCurrent` (R129): F-PSC. -/
def sendPsc (m : Motor) (s : State) : State :=
  let f := pscFields m.tgt
  s.emit ⟨dest m.cfg.id s.par.offPsc, 8, f.1⟩ f.2

/-- The single dispatch point (R192): exactly one encoder, that of the slot's mode. -/
def dispatchControl (slot : Byte) (s : State) : Answer :=
  onSlot slot s fun _ m =>
    match m.mode with
    | .mit => .next (sendMit m s)
    | .position => .next (sendPos m s)
    | .speed => .next (sendSpd m s)
    | .positionSpeedCurrent => .next (sendPsc m s)

/-- `CTRL.MIT` (R122). The four `CTRL` operations are one select code and so one transaction, which the slot's mode
picks (R95: "the same code written with the mode the writer expects"; log 9). -/
def execCtrlMit (slot : Byte) (s : State) : Answer := dispatchControl slot s

/-- `CTRL.POS` (R124; log 9). -/
def execCtrlPos (slot : Byte) (s : State) : Answer := dispatchControl slot s

/-- `CTRL.SPD` (R126; log 9). -/
def execCtrlSpd (slot : Byte) (s : State) : Answer := dispatchControl slot s

/-- `CTRL.PSC` (R129; log 9). -/
def execCtrlPsc (slot : Byte) (s : State) : Answer := dispatchControl slot s

end Sys2Proof.Machine
end

