-- ==== Sys2Proof/Machine/ModeCommands.lean ====
section
/-! DEFINITION. The four mode commands, `CLRERR`, `ENABLE`, `DISABLE`, `SAVEZERO`: 42_mode_commands.md rules R140 to
R146. -/

namespace Sys2Proof.Machine

/-- `CLRERR` (R145): the sentinel `0xFB`; no state changes. -/
def execClrerr (slot : Byte) (s : State) : Answer := onSlot slot s fun _ m => .next (sendSentinel 0xFB m s)

/-- `ENABLE` (R142): the sentinel `0xFC`; no state changes. -/
def execEnable (slot : Byte) (s : State) : Answer := onSlot slot s fun _ m => .next (sendSentinel 0xFC m s)

/-- `DISABLE` (R143): the sentinel `0xFD`, and all six targets become `+0.0`, whether or not the transport accepted the
frame. -/
def execDisable (slot : Byte) (s : State) : Answer :=
  onSlot slot s fun k m => .next ((sendSentinel 0xFD m s).setMotor k (m.withTgt Target.zero))

/-- `SAVEZERO` (R144): the sentinel `0xFE`; no state changes. -/
def execSavezero (slot : Byte) (s : State) : Answer := onSlot slot s fun _ m => .next (sendSentinel 0xFE m s)

end Sys2Proof.Machine
end

