-- ==== Sys2Proof/WellFormed.lean ====
section
/-! DEFINITION. Which terms of `Instr` are well formed: the operand values that 30_encoding.md rule R89 (c) to (e)
does not call illegal, and the payload class of an RX operation (R72, R193). The slot bound of R89 (b) depends on
`NMOTOR` and is checked by the meanings. -/

namespace Sys2Proof

/-- `bits` is legal for `QENC` and `QDEC`: 1 to 16 (R89 (d)). -/
def legalWidth (bits : Byte) : Bool := 1 ≤ bits.toNat && bits.toNat ≤ 16

/-- `raw` is legal for a width: at most `2^bits - 1` (R89 (e)). -/
def legalRaw (raw : Word) (bits : Byte) : Bool := raw.toNat ≤ 2 ^ bits.toNat - 1

/-- The read tag `0x33` of a read-response, byte 2 of its payload (R82, R166). -/
def Payload.hasReadTag (p : Payload) : Bool := p.b2 == 0x33

/-- An RX operation carries the payload class its constructor names (R72: "an RX transaction is one of two operations
by its payload"); every other operation has no class. Every decoded operation meets this. -/
def Instr.classMatches : Instr → Bool
  | .rxFb _ p => !p.hasReadTag
  | .rxRsp _ p => p.hasReadTag
  | .qenc .. | .qdec .. | .setmode .. | .settgt .. | .ctrlMit _ | .ctrlPos _ | .ctrlSpd _ | .ctrlPsc _
  | .clrerr _ | .enable _ | .disable _ | .savezero _ | .regrd .. | .regwr .. | .regsave _ | .scanstart _ => true

/-- The operand values are none of those R89 (c), (d), (e) calls illegal. -/
def Instr.operandsLegal : Instr → Bool
  | .qenc _ _ _ bits => legalWidth bits
  | .qdec raw _ _ bits => legalWidth bits && legalRaw raw bits
  | .setmode _ code => code.toNat ≤ 3
  | .settgt .. | .ctrlMit _ | .ctrlPos _ | .ctrlSpd _ | .ctrlPsc _ | .clrerr _ | .enable _ | .disable _
  | .savezero _ | .regrd .. | .regwr .. | .regsave _ | .scanstart _ | .rxFb .. | .rxRsp .. => true

/-- A well-formed operation: legal operands and a payload of its class. -/
def Instr.wellFormed (i : Instr) : Bool := i.operandsLegal && i.classMatches

end Sys2Proof
end

