-- ==== Sys2Proof/Decode.lean ====
section
/-! DEFINITION. From a word on a port to an operation and back: the select codes and operand places of 30_encoding.md
rules R72, R88, R93, the integer view of a payload of 00_scope.md rule R11, and the reading of an opcode-table word. -/

namespace Sys2Proof

/-- Why a port word names none of the 18 operations. -/
inductive DecodeError where
  /-- A command whose `op` is one of the unassigned codes of R89 (a). -/
  | unassignedOp (op : BitVec 5)
  /-- A frame whose `rx_len` is not 8 (R90, R194). -/
  | wrongLength (len : BitVec 4)
deriving DecidableEq, Repr

/-- What decoding a port word answers: an operation, or a rejection by name. -/
inductive Decoded where
  | instr (i : Instr)
  | rejected (e : DecodeError)
deriving DecidableEq, Repr

/-! ## The codes -/

/-- `a[7:0]`, the low byte of an operand word: "only the low bits named are read" (R72, R88). -/
def lowByte (a : Word) : Byte := a.extractLsb' 0 8

/-- An operand word that carries a byte in its low bits. -/
def wordOfByte (b : Byte) : Word := b.setWidth 32

/-- The operation `CTRL slot` is in a given mode: one select code, four operations (R72, R93 (a)). -/
def ctrlInstr (mode : Mode) (slot : Byte) : Instr :=
  match mode with
  | .mit => .ctrlMit slot
  | .position => .ctrlPos slot
  | .speed => .ctrlSpd slot
  | .positionSpeedCurrent => .ctrlPsc slot

/-- The thirteen select codes of R72; every other code is unassigned (R89 (a)). `mode` is `M[slot].mode`, which only
`CTRL` looks at. -/
def decodeCommand (mode : Mode) (c : Command) : Decoded :=
  if c.op = 0x01 then .instr (.qenc c.a0 c.a1 c.a2 (lowByte c.a3))
  else if c.op = 0x02 then .instr (.qdec c.a0 c.a1 c.a2 (lowByte c.a3))
  else if c.op = 0x04 then .instr (.setmode c.slot (lowByte c.a0))
  else if c.op = 0x05 then .instr (.settgt c.slot c.a0 c.a1 c.a2 c.a3 c.a4 c.a5)
  else if c.op = 0x08 then .instr (ctrlInstr mode c.slot)
  else if c.op = 0x0B then .instr (.clrerr c.slot)
  else if c.op = 0x0C then .instr (.enable c.slot)
  else if c.op = 0x0D then .instr (.disable c.slot)
  else if c.op = 0x0E then .instr (.savezero c.slot)
  else if c.op = 0x10 then .instr (.regrd c.slot (lowByte c.a0))
  else if c.op = 0x11 then .instr (.regwr c.slot (lowByte c.a0) c.a1)
  else if c.op = 0x12 then .instr (.regsave c.slot)
  else if c.op = 0x13 then .instr (.scanstart c.slot)
  else .rejected (.unassignedOp c.op)

/-- A payload is a read-response exactly when `B2 = 0x33` (R82, R166, R167). -/
def isReadResponse (p : Payload) : Bool := p.b2 == 0x33

/-- A frame of 8 bytes is one of two operations by its payload (R72, R93 (b)); any other length names none (R194). -/
def decodeFrame (f : RxFrame) : Decoded :=
  if f.len = 8 then
    if isReadResponse f.data then .instr (.rxRsp f.id f.data) else .instr (.rxFb f.id f.data)
  else .rejected (.wrongLength f.len)

/-- The operation a port word names. Total: every word gives an operation or a rejection by name. -/
def decode (mode : Mode) : PortWord → Decoded
  | .cmd c => decodeCommand mode c
  | .rx f => decodeFrame f

/-! ## The encoder -/

/-- A command with an `op`, a `slot` and no operands: the words it does not use are 0 (any value would do, R72). -/
def bareCommand (op : BitVec 5) (slot : Byte) : Command := ⟨op, slot, 0, 0, 0, 0, 0, 0⟩

/-- The port word of an operation, from the same table (R72, R88). -/
def encode : Instr → PortWord
  | .qenc value lo hi bits => .cmd ⟨0x01, 0, value, lo, hi, wordOfByte bits, 0, 0⟩
  | .qdec raw lo hi bits => .cmd ⟨0x02, 0, raw, lo, hi, wordOfByte bits, 0, 0⟩
  | .setmode slot code => .cmd { bareCommand 0x04 slot with a0 := wordOfByte code }
  | .settgt slot pos vel kp kd torque current => .cmd ⟨0x05, slot, pos, vel, kp, kd, torque, current⟩
  | .ctrlMit slot => .cmd (bareCommand 0x08 slot)
  | .ctrlPos slot => .cmd (bareCommand 0x08 slot)
  | .ctrlSpd slot => .cmd (bareCommand 0x08 slot)
  | .ctrlPsc slot => .cmd (bareCommand 0x08 slot)
  | .clrerr slot => .cmd (bareCommand 0x0B slot)
  | .enable slot => .cmd (bareCommand 0x0C slot)
  | .disable slot => .cmd (bareCommand 0x0D slot)
  | .savezero slot => .cmd (bareCommand 0x0E slot)
  | .regrd slot rid => .cmd { bareCommand 0x10 slot with a0 := wordOfByte rid }
  | .regwr slot rid data => .cmd { bareCommand 0x11 slot with a0 := wordOfByte rid, a1 := data }
  | .regsave slot => .cmd (bareCommand 0x12 slot)
  | .scanstart slot => .cmd (bareCommand 0x13 slot)
  | .rxFb rxId p => .rx ⟨rxId, 8, p⟩
  | .rxRsp rxId p => .rx ⟨rxId, 8, p⟩

/-- The mode under which `CTRL` is read as this operation: the four `CTRL` operations fix it (R72), the rest do not
look at it. -/
def Instr.fitsMode (i : Instr) (mode : Mode) : Bool :=
  match i with
  | .ctrlMit _ => mode == .mit
  | .ctrlPos _ => mode == .position
  | .ctrlSpd _ => mode == .speed
  | .ctrlPsc _ => mode == .positionSpeedCurrent
  | .qenc .. | .qdec .. | .setmode .. | .settgt .. | .clrerr _ | .enable _ | .disable _ | .savezero _
  | .regrd .. | .regwr .. | .regsave _ | .scanstart _ | .rxFb .. | .rxRsp .. => true

/-! ## Integer views -/

/-- The 64-bit integer view of a payload: `P = {B0, B1, ..., B7}`, `B0` most significant (R11). -/
def Payload.toBits (p : Payload) : BitVec 64 :=
  p.b0 ++ p.b1 ++ p.b2 ++ p.b3 ++ p.b4 ++ p.b5 ++ p.b6 ++ p.b7

/-- The payload with a given integer view: `B0 = P[63:56]` down to `B7 = P[7:0]` (R11). -/
def Payload.ofBits (w : BitVec 64) : Payload where
  b0 := w.extractLsb' 56 8
  b1 := w.extractLsb' 48 8
  b2 := w.extractLsb' 40 8
  b3 := w.extractLsb' 32 8
  b4 := w.extractLsb' 24 8
  b5 := w.extractLsb' 16 8
  b6 := w.extractLsb' 8 8
  b7 := w.extractLsb' 0 8

/-- DESIGN CHOICE (log 11): the wires of the command port as one number, `op` in bits 4:0 (where opcode_table.json has
it), `slot` from bit 8, `a0` from bit 16, and so on up; bits 7:5 are not wires of the port and are not read. -/
def Command.ofBits (w : BitVec 208) : Command where
  op := w.extractLsb' 0 5
  slot := w.extractLsb' 8 8
  a0 := w.extractLsb' 16 32
  a1 := w.extractLsb' 48 32
  a2 := w.extractLsb' 80 32
  a3 := w.extractLsb' 112 32
  a4 := w.extractLsb' 144 32
  a5 := w.extractLsb' 176 32

/-- The same number from the wires, bits 7:5 zero (log 11). -/
def Command.toBits (c : Command) : BitVec 208 :=
  c.a5 ++ c.a4 ++ c.a3 ++ c.a2 ++ c.a1 ++ c.a0 ++ c.slot ++ (0 : BitVec 3) ++ c.op

/-- DESIGN CHOICE (log 11): the wires of the RX port as one number, the payload's integer view in bits 63:0 (where
opcode_table.json has it), `rx_id` in bits 79:64, `rx_len` in bits 83:80. -/
def RxFrame.ofBits (w : BitVec 84) : RxFrame where
  id := w.extractLsb' 64 16
  len := w.extractLsb' 80 4
  data := Payload.ofBits (w.extractLsb' 0 64)

/-- The same number from the wires (log 11). -/
def RxFrame.toBits (f : RxFrame) : BitVec 84 := f.len ++ f.id ++ f.data.toBits

/-- A port and the number on its wires. -/
inductive PortBits where
  | cmd (w : BitVec 208)
  | rx (w : BitVec 84)
deriving DecidableEq, Repr

/-- The wires of a port word. -/
def PortWord.toBits : PortWord → PortBits
  | .cmd c => .cmd c.toBits
  | .rx f => .rx f.toBits

/-- The port word on given wires. -/
def PortWord.ofBits : PortBits → PortWord
  | .cmd w => .cmd (Command.ofBits w)
  | .rx w => .rx (RxFrame.ofBits w)

/-- The port word of an opcode-table word of `nbits` bits (log 11). A row of 64 bits is a payload on the RX port (the
table's own integer view), delivered whole (`rx_len = 8`, the row's condition) with `rx_id = 0`; a shorter row is the
low bits of the command port's wires, all higher wires 0. -/
def tablePortWord (nbits w : Nat) : PortWord :=
  if nbits = 64 then .rx ⟨0, 8, Payload.ofBits (BitVec.ofNat 64 w)⟩
  else .cmd (Command.ofBits (BitVec.ofNat 208 (w % 2 ^ nbits)))

/-- The instruction the decoder reads from an opcode-table word. The table gives `CTRL` one word for four rows; it is
read in the mode of the reset state, `Mit` (R44, log 9). -/
def decodeTableWord (nbits w : Nat) : Option Instr :=
  match decode .mit (tablePortWord nbits w) with
  | .instr i => some i
  | .rejected _ => none

end Sys2Proof
end

