-- ==== Sys2Proof/Machine/Sequencer.lean ====
section
/-! DEFINITION. The register sequencer: 45_sequencer.md rules R175 to R182. -/

namespace Sys2Proof.Machine

/-- The entry `REG_TABLE[n]`, `n` from 1 (R7); there is none for `n = 0` (`Idle`, R175) nor above `NREG`. -/
def regEntry (p : Params) (n : Nat) : Option RegEntry := if n = 0 then none else p.regTable[n - 1]?

/-- `req(s, n)`, the read request of a state, for the entry of `REG_TABLE` that state reads (R176). -/
def readRequest (p : Params) (m : Motor) (e : RegEntry) : Frame := mgmtFrame p 4 (readPayload m.cfg.id e.rid)

/-- `SCANSTART` (R177): the cursor becomes 1 from any state, whether or not the transport accepted the request; the
cache is not cleared. An empty `REG_TABLE`, which R5 excludes, has no entry 1 (log 13). -/
def execScanstart (slot : Byte) (s : State) : Answer :=
  onSlot slot s fun k m =>
    match regEntry s.par 1 with
    | some e => .next ((s.setMotor k (m.withCursor 1)).emit (readRequest s.par m e))
    | none => .fault .noRegisterEntry

/-- The record after an accepted response in `Reading(n)` (R178): the word stored, the cursor advanced, or back to
`Idle` after the last entry. -/
def advanceScan (p : Params) (m : Motor) (val : Word) : Motor :=
  (m.withCacheWord m.cursor val).withCursor (if m.cursor < p.nreg then m.cursor + 1 else 0)

/-- The transition of an accepted response (R178): `adv`, and the request of the new state unless it is `Idle`. -/
def acceptResponse (k : Nat) (m : Motor) (val : Word) (s : State) : Answer :=
  if m.cursor < s.par.nreg then
    match regEntry s.par (m.cursor + 1) with
    | some e => .next ((s.setMotor k (advanceScan s.par m val)).complete none { adv := true, txErr := s.txFail }
        (some (readRequest s.par m e)))
    | none => .fault .noRegisterEntry
  else .next ((s.setMotor k (advanceScan s.par m val)).complete none { adv := true } none)

/-- The register stage of a read-response `(rid, val)` for slot `k`, whose record is `m` (R178 to R180): ignored in
`Idle`, `desync` on a mismatch, else accepted. A cursor above `NREG`, which R36 excludes, has no expected id (log 13). -/
def registerStage (k : Nat) (m : Motor) (rid : Byte) (val : Word) (s : State) : Answer :=
  if m.cursor = 0 then .next (s.complete none {} none)
  else
    match regEntry s.par m.cursor with
    | some e => if rid = e.rid then acceptResponse k m val s else .next (s.complete none { desync := true } none)
    | none => .fault .noRegisterEntry

end Sys2Proof.Machine
end

