-- ==== Sys2Proof/Machine/Receive.lean ====
section
/-! DEFINITION. The RX transaction and its two stages, `RX.FB` and `RX.RSP`: 43_feedback.md rules R150 to R156,
44_register_protocol.md rules R167 to R169, 46_registry.md rules R193 to R196. -/

namespace Sys2Proof.Machine

/-- The whole `fb` group from a feedback payload (R151 to R154). -/
def feedbackOf (cfg : SlotConfig) (p : Payload) : Feedback where
  rawPos := cutRawPos p
  rawVel := cutRawVel p
  rawTor := cutRawTor p
  pos := quantDecode ((cutRawPos p).setWidth 32) (fneg cfg.pMax) cfg.pMax 16
  vel := quantDecode ((cutRawVel p).setWidth 32) (fneg cfg.vMax) cfg.vMax 12
  tor := quantDecode ((cutRawTor p).setWidth 32) (fneg cfg.tMax) cfg.tMax 12
  tMos := u2f p.b6.toNat
  tCoil := u2f p.b7.toNat
  state := cutState p
  idEcho := cutIdEcho p

/-- The record after the feedback stage (R154): `fb` overwritten, nothing else. -/
def feedbackStage (m : Motor) (p : Payload) : Motor := m.withFb (feedbackOf m.cfg p)

/-- The RX transaction of an 8-byte frame (R193): dropped if no slot owns the id; else the feedback stage, always, and
then, if `B2 = 0x33`, the register stage on the record it left (R195). -/
def receiveFrame (rxId : Id16) (p : Payload) (s : State) : Answer :=
  match rxSlot s rxId with
  | none => .next s.dropFrame
  | some k =>
    match s.motors[k]? with
    | none => .next s.dropFrame
    | some m =>
      if isReadResponse p then
        registerStage k (feedbackStage m p) (cutRid p) (cutValue p) (s.setMotor k (feedbackStage m p))
      else .next ((s.setMotor k (feedbackStage m p)).complete none {} none)

/-- `RX.FB` (R154): the RX transaction of a frame whose `B2` is not `0x33`. The two RX operations are one transaction,
which the payload picks (R95; log 10). -/
def execRxFb (rxId : Id16) (p : Payload) (s : State) : Answer := receiveFrame rxId p s

/-- `RX.RSP` (R167, R178 to R180): the RX transaction of a frame whose `B2` is `0x33`, both stages (R195; log 10). -/
def execRxRsp (rxId : Id16) (p : Payload) (s : State) : Answer := receiveFrame rxId p s

end Sys2Proof.Machine
end

