-- ==== Sys2Proof/Machine/RegisterProtocol.lean ====
section
/-! DEFINITION. The register protocol outbound, `REGRD`, `REGWR`, `REGSAVE`: 44_register_protocol.md rules R160 to
R166. -/

namespace Sys2Proof.Machine

/-- `REGRD` (R161, R162): F-RRD for any register id; no state changes, the cursor included. -/
def execRegrd (slot rid : Byte) (s : State) : Answer :=
  onSlot slot s fun _ m => .next (s.emit (mgmtFrame s.par 4 (readPayload m.cfg.id rid)))

/-- `REGWR` (R163, R164): F-RWR for any register id; no state changes, the cache included. -/
def execRegwr (slot rid : Byte) (data : Word) (s : State) : Answer :=
  onSlot slot s fun _ m => .next (s.emit (mgmtFrame s.par 8 (writePayload m.cfg.id rid data)))

/-- `REGSAVE` (R165): F-RSV; no state changes. -/
def execRegsave (slot : Byte) (s : State) : Answer :=
  onSlot slot s fun _ m => .next (s.emit (mgmtFrame s.par 4 (savePayload m.cfg.id)))

end Sys2Proof.Machine
end

