-- ==== Sys2Proof/Machine/Registry.lean ====
section
/-! DEFINITION. Writing the mode and the targets, `SETMODE` and `SETTGT`: 46_registry.md rules R190, R191. -/

namespace Sys2Proof.Machine

/-- `SETMODE` (R190): a code above 3 is refused; else `M[s].mode` is written and nothing else. -/
def execSetmode (slot code : Byte) (s : State) : Answer :=
  onSlot slot s fun k m =>
    match modeOfCode code with
    | some mode => .next (s.setMotor k (m.withMode mode)).done
    | none => .next s.refuse

/-- `SETTGT` (R191): all six targets, any patterns. -/
def execSettgt (slot : Byte) (pos vel kp kd torque current : F32) (s : State) : Answer :=
  onSlot slot s fun k m => .next (s.setMotor k (m.withTgt ⟨pos, vel, kp, kd, torque, current⟩)).done

end Sys2Proof.Machine
end

