-- ==== Sys2Proof/Machine/Dispatch.lean ====
section
/-! DEFINITION. One arm per operation of opcode_table.json. -/

namespace Sys2Proof.Machine

def exec (i : Instr) (s : State) : Host.Outcome State Fault Refusal :=
  match i with
  | .qenc value lo hi bits => Sys2Proof.Machine.execQenc value lo hi bits s
  | .qdec raw lo hi bits => Sys2Proof.Machine.execQdec raw lo hi bits s
  | .setmode slot code => Sys2Proof.Machine.execSetmode slot code s
  | .settgt slot pos vel kp kd torque current => Sys2Proof.Machine.execSettgt slot pos vel kp kd torque current s
  | .ctrlMit slot => Sys2Proof.Machine.execCtrlMit slot s
  | .ctrlPos slot => Sys2Proof.Machine.execCtrlPos slot s
  | .ctrlSpd slot => Sys2Proof.Machine.execCtrlSpd slot s
  | .ctrlPsc slot => Sys2Proof.Machine.execCtrlPsc slot s
  | .clrerr slot => Sys2Proof.Machine.execClrerr slot s
  | .enable slot => Sys2Proof.Machine.execEnable slot s
  | .disable slot => Sys2Proof.Machine.execDisable slot s
  | .savezero slot => Sys2Proof.Machine.execSavezero slot s
  | .regrd slot rid => Sys2Proof.Machine.execRegrd slot rid s
  | .regwr slot rid data => Sys2Proof.Machine.execRegwr slot rid data s
  | .regsave slot => Sys2Proof.Machine.execRegsave slot s
  | .scanstart slot => Sys2Proof.Machine.execScanstart slot s
  | .rxFb rxId data => Sys2Proof.Machine.execRxFb rxId data s
  | .rxRsp rxId data => Sys2Proof.Machine.execRxRsp rxId data s

end Sys2Proof.Machine
end

