-- ==== Sys2Proof/Machine/Ports.lean ====
section
/-! DEFINITION. What the block takes from its ports: 30_encoding.md rules R70, R71, R89, R90, R93, the reset input of
70_reset_and_hazards.md rule R240, and the observation port of 46_registry.md rule R199. -/

namespace Sys2Proof.Machine

/-- What a step finds at the ports: an operation to run, with the state it runs in, or nothing to run and the state
that step leaves. -/
inductive Fetched where
  | run (i : Instr) (s : State)
  | quiet (s : State)
deriving DecidableEq, Repr

/-- The mode `CTRL` is read in: `M[slot].mode` of the slot the command names (R93 (a)). A slot that does not exist has
no mode; `CTRL` on it is refused whatever is read (R89 (b)). -/
def portMode (s : State) : PortWord → Mode
  | .cmd c => ((s.motors[c.slot.toNat]?).map Motor.mode).getD .mit
  | .rx _ => .mit

/-- A port word that names no operation: an unassigned `op` is refused (R89 (a)), a wrong length is dropped (R194). -/
def rejectWord (e : DecodeError) (s : State) : State :=
  match e with
  | .unassignedOp _ => s.refuse
  | .wrongLength _ => s.dropFrame

/-- The state in which a transaction runs: its word taken from the ports, the transport's answer on its wire, no output
yet. -/
def takeTransaction (s : State) (rest : List Event) (txFail : Bool) : State :=
  { s with inputs := rest, txFail := txFail, resp := none }

/-- Take what is offered next. With nothing offered the block does nothing (R242, log 8); while `rst` is asserted a
transaction is not accepted (R240, log 7). DESIGN CHOICE (log 7): the spec has no release of `rst` that is not asserted;
one offered then is performed all the same, a full reset that samples the configuration inputs, and an assertion offered
while `rst` is asserted changes nothing. -/
def fetch (s : State) : Fetched :=
  match s.inputs with
  | [] => .quiet { s with resp := none }
  | .assertReset :: rest => .quiet { s with inputs := rest, rst := true, resp := none }
  | .releaseReset cfgs :: rest => .quiet ({ s with inputs := rest }.releaseReset cfgs)
  | .transaction w txFail :: rest =>
    if s.rst then .quiet { s with inputs := rest, resp := none }
    else
      match decode (portMode s w) w with
      | .instr i => .run i (takeTransaction s rest txFail)
      | .rejected e => .quiet (rejectWord e (takeTransaction s rest txFail))

/-- The state with one transaction of an opcode-table word offered first, and reset not asserted. -/
def offerTableWord (s : State) (nbits w : Nat) : State :=
  { s with inputs := .transaction (tablePortWord nbits w) false :: s.inputs, rst := false }

/-! ## The observation port (R199): reads, with no effect, of the state the last transaction left -/

/-- The record of a slot, as the host reads it. -/
def observe (s : State) (slot : Nat) : Option Motor := s.motors[slot]?

/-- A cache word as the host reads it, by the type its entry has (R35, R168). -/
inductive TypedValue where
  | f32 (x : F32)
  | u32 (w : Word)
deriving DecidableEq, Repr

/-- The typed view of `M[slot].cache[n]`, `n` from 1: the same bits, named by `REG_TABLE[n].ty` (R35). -/
def observeCache (s : State) (slot n : Nat) : Option TypedValue :=
  if n = 0 then none
  else
    match s.motors[slot]?, s.par.regTable[n - 1]? with
    | some m, some e =>
      (m.cache[n - 1]?).map fun w =>
        match e.ty with
        | .f32 => .f32 w
        | .u32 => .u32 w
    | _, _ => none

end Sys2Proof.Machine
end

