-- ==== Sys2Proof/Machine/Step.lean ====
section
/-! DEFINITION. One step: what the ports offer next, run as one transaction (20_memory.md rule R63). -/

namespace Sys2Proof.Machine

/-- One step of the block. It takes what is offered next and, if that is an operation, runs it. -/
def step (s : State) : Host.Outcome State Fault Refusal :=
  match fetch s with
  | .run i s' => exec i s'
  | .quiet s' => .next s'

/-- The state whose next step runs the opcode-table word `w` of `nbits` bits (log 1, log 11). -/
def State.withFetchWord (s : State) (nbits w : Nat) : State := offerTableWord s nbits w

end Sys2Proof.Machine
end

