-- ==== Sys2Proof/Safety.lean ====
section
/-! DEFINITION. The terms claims are made in: the premises of 00_scope.md rule R8, the invariant of a registry
(10_state.md rules R22 to R36), which slot a transaction names (46_registry.md rule R202), and what a safe step is. -/

namespace Sys2Proof.Machine

/-! ## Premises on the parameters and the configuration inputs (R5, R8) -/

/-- What a mode offset, the gain ranges and `REG_TABLE` must meet: `NREG` at least 1 (R5), distinct offsets (R8 (a)),
distinct register ids (R8 (c)), finite non-empty gain ranges (R8 (d)). -/
structure Params.Legal (p : Params) : Prop where
  nreg_pos : 1 ≤ p.nreg
  offsets_distinct : [p.offMit, p.offPos, p.offSpd, p.offPsc].Nodup
  rids_distinct : (p.regTable.map RegEntry.rid).Nodup
  gains_finite : isFinite p.kpMin ∧ isFinite p.kpMax ∧ isFinite p.kdMin ∧ isFinite p.kdMax
  gains_ordered : flt p.kpMin p.kpMax ∧ flt p.kdMin p.kdMax

/-- No control frame or mode command of any slot goes to `MGMT_ID` (R8 (b)). -/
def State.IdsLegal (s : State) : Prop :=
  ∀ m ∈ s.motors, ∀ mode : Mode, dest m.cfg.id (modeOffset s.par mode) ≠ s.par.mgmtId

/-- A limit a host may use: finite and greater than zero (R8 (e)). -/
def usableLimit (x : F32) : Prop := isFinite x ∧ flt 0 x

/-- The three limits of a slot are usable (R8 (e)). -/
structure SlotConfig.LimitsUsable (cfg : SlotConfig) : Prop where
  pMax : usableLimit cfg.pMax
  vMax : usableLimit cfg.vMax
  tMax : usableLimit cfg.tMax

/-- The limits of every slot are finite and greater than zero (R8 (e)). -/
def State.LimitsUsable (s : State) : Prop := ∀ m ∈ s.motors, SlotConfig.LimitsUsable m.cfg

/-- All the premises on the parameters and the configuration inputs: R5 with the bound of R88, and R8 (a) to (e). -/
structure State.Legal (s : State) : Prop where
  nmotor_pos : 1 ≤ s.nmotor
  nmotor_le : s.nmotor ≤ 256
  params : Params.Legal s.par
  ids : s.IdsLegal
  limits : s.LimitsUsable

/-! ## The invariant -/

/-- The decoded fields are those of the raw fields against the slot's limits, and each temperature is one of the 256
values of a byte (R30, R31). -/
def FeedbackDecoded (cfg : SlotConfig) (fb : Feedback) : Prop :=
  fb.pos = quantDecode (fb.rawPos.setWidth 32) (fneg cfg.pMax) cfg.pMax 16 ∧
  fb.vel = quantDecode (fb.rawVel.setWidth 32) (fneg cfg.vMax) cfg.vMax 12 ∧
  fb.tor = quantDecode (fb.rawTor.setWidth 32) (fneg cfg.tMax) cfg.tMax 12 ∧
  (∃ b : Byte, fb.tMos = u2f b.toNat) ∧ (∃ b : Byte, fb.tCoil = u2f b.toNat)

/-- What holds of a Motor record in every state of the block: one cache word per entry (R34), a cursor in `0..NREG`
(R36), nibbles below 16 (R32), and a feedback group that is the reset value or decoded from one payload (R30, R44). -/
structure Motor.Inv (p : Params) (m : Motor) : Prop where
  cache_length : m.cache.length = p.nreg
  cursor_le : m.cursor ≤ p.nreg
  state_lt : m.fb.state.toNat < 16
  idEcho_lt : m.fb.idEcho.toNat < 16
  feedback : m.fb = Feedback.zero ∨ FeedbackDecoded m.cfg m.fb

/-- The invariant of a state: at least one slot (R5), as many as the 8 bits of a slot operand can name (R88), a table
that is not empty (R5), and every record meets its own. -/
structure State.Inv (s : State) : Prop where
  nmotor_pos : 1 ≤ s.nmotor
  nmotor_le : s.nmotor ≤ 256
  nreg_pos : 1 ≤ s.par.nreg
  motors : ∀ m ∈ s.motors, m.Inv s.par

/-! ## Slots -/

/-- The slot operand of a command that names one (R51, R72): `QENC` and `QDEC` name none, an RX operation none either. -/
def slotOperand : Instr → Option Byte
  | .qenc .. | .qdec .. | .rxFb .. | .rxRsp .. => none
  | .setmode slot _ | .settgt slot .. | .ctrlMit slot | .ctrlPos slot | .ctrlSpd slot | .ctrlPsc slot
  | .clrerr slot | .enable slot | .disable slot | .savezero slot | .regrd slot _ | .regwr slot _ _
  | .regsave slot | .scanstart slot => some slot

/-- The received id of an RX operation. -/
def receivedId : Instr → Option Id16
  | .rxFb rxId _ | .rxRsp rxId _ => some rxId
  | .qenc .. | .qdec .. | .setmode .. | .settgt .. | .ctrlMit _ | .ctrlPos _ | .ctrlSpd _ | .ctrlPsc _
  | .clrerr _ | .enable _ | .disable _ | .savezero _ | .regrd .. | .regwr .. | .regsave _ | .scanstart _ => none

/-- The slot an operation names: its operand, or `RX_MAP` of its received id (R202). -/
def namedSlot (s : State) (i : Instr) : Option Nat :=
  match slotOperand i with
  | some slot => some slot.toNat
  | none => (receivedId i).bind (rxSlot s)

/-- The slot a port word names, before it is decoded. -/
def wordSlot (s : State) : PortWord → Option Nat
  | .cmd c => some c.slot.toNat
  | .rx f => rxSlot s f.id

/-! ## Illegal commands (R89) -/

/-- The unassigned select codes, as R89 (a) lists them. -/
def unassignedOps : List (BitVec 5) :=
  [0x00, 0x03, 0x06, 0x07, 0x09, 0x0A, 0x0F,
   0x14, 0x15, 0x16, 0x17, 0x18, 0x19, 0x1A, 0x1B, 0x1C, 0x1D, 0x1E, 0x1F]

/-- A command transaction is illegal (R89): (a) an unassigned `op`; (b) a slot named that is not there; (c) a mode code
above 3; (d) a width outside 1..16; (e) a raw value above `2^bits - 1`. -/
def IllegalCommand (s : State) (c : Command) : Prop :=
  c.op ∈ unassignedOps ∨
  (c.op ∉ unassignedOps ∧ c.op ≠ 0x01 ∧ c.op ≠ 0x02 ∧ s.nmotor ≤ c.slot.toNat) ∨
  (c.op = 0x04 ∧ 3 < (c.a0.extractLsb' 0 8).toNat) ∨
  ((c.op = 0x01 ∨ c.op = 0x02) ∧ ((c.a3.extractLsb' 0 8).toNat = 0 ∨ 16 < (c.a3.extractLsb' 0 8).toNat)) ∨
  (c.op = 0x02 ∧ 2 ^ (c.a3.extractLsb' 0 8).toNat - 1 < c.a0.toNat)

/-! ## Targets a control frame reads -/

/-- Two target sets agree on the fields the frame of a mode transmits (R28, R201). -/
def agreeOnRead (mode : Mode) (t u : Target) : Prop :=
  match mode with
  | .mit => t.pos = u.pos ∧ t.vel = u.vel ∧ t.kp = u.kp ∧ t.kd = u.kd ∧ t.torque = u.torque
  | .position => t.pos = u.pos ∧ t.vel = u.vel
  | .speed => t.vel = u.vel
  | .positionSpeedCurrent => t.pos = u.pos ∧ t.vel = u.vel ∧ t.current = u.current

/-! ## Responses of a scan -/

/-- A read-response as the transport delivers it (R82): bytes 0 and 1 free, the tag, a register id and a value. -/
def responseWord (rxId : Id16) (b0 b1 rid : Byte) (val : Word) : PortWord :=
  .rx ⟨rxId, 8, ⟨b0, b1, 0x33, rid, leByte val 0, leByte val 1, leByte val 2, leByte val 3⟩⟩

/-- The in-order responses of a whole scan (R183): for each entry of the table, in order, its id and one value. -/
def scanResponses (rxId : Id16) (b0 b1 : Byte) (txFail : Bool) (table : List RegEntry) (vals : List Word) : List Event :=
  (table.zip vals).map fun ev => .transaction (responseWord rxId b0 b1 ev.1.rid ev.2) txFail

/-! ## Safe steps -/

/-- A step is safe if it answers a next state. -/
def SafeStep (s : State) : Prop := ∃ t, step s = .next t

/-- What `step` has done when it has taken a transaction off the ports: the state an operation runs in. -/
def running (s : State) (rest : List Event) (txFail : Bool) : State :=
  { s with inputs := rest, txFail := txFail, resp := none }

end Sys2Proof.Machine
end

