-- ==== Sys2Proof/Certificates/Slice0/Obligations.lean ====
section
/-! DEFINITION. The statements for the provers, by the rules of spec/. The parameters, the configuration inputs and the
transport's answer are fields of the state, so a statement about every state holds for every value of them. -/

open Sys2Proof Sys2Proof.Machine

/-! ## Ports and encodings -/

/-- A transaction whose word names an operation is that operation, run with the word taken off the ports and the
transport's answer on its wire (R63; log 1); and the mode a command is decoded in is the present mode of the slot it
names, so that `CTRL` is the operation of that mode (R93 (a), R192). -/
def Obligations.StepRunsTheDecodedOperation : Prop :=
  (∀ (s : State) (w : PortWord) (txFail : Bool) (rest : List Event) (i : Instr),
    s.inputs = .transaction w txFail :: rest → s.rst = false → decode (portMode s w) w = .instr i →
    step s = exec i { s with inputs := rest, txFail := txFail, resp := none }) ∧
  (∀ (s : State) (c : Command) (m : Motor), s.motors[c.slot.toNat]? = some m → portMode s (.cmd c) = m.mode) ∧
  ∀ (s : State) (c : Command) (txFail : Bool) (rest : List Event) (m : Motor),
    s.inputs = .transaction (.cmd c) txFail :: rest → s.rst = false → s.motors[c.slot.toNat]? = some m → c.op = 0x08 →
    step s = exec (match m.mode with
      | .mit => .ctrlMit c.slot
      | .position => .ctrlPos c.slot
      | .speed => .ctrlSpd c.slot
      | .positionSpeedCurrent => .ctrlPsc c.slot) { s with inputs := rest, txFail := txFail, resp := none }

/-- With nothing offered a step does nothing: no field of any slot changes, nothing is presented (R227, R242; that such a
step is a next state is the model's choice, log 8). -/
def Obligations.NothingOfferedChangesNothing : Prop :=
  ∀ s : State, s.inputs = [] → step s = .next { s with resp := none }

/-- R89: an illegal command is refused, `ill` alone, result 0, no frame, no state change. -/
def Obligations.IllegalCommandsAreRefused : Prop :=
  ∀ (s : State) (c : Command) (txFail : Bool) (rest : List Event),
    s.inputs = .transaction (.cmd c) txFail :: rest → s.rst = false → IllegalCommand s c →
    step s = .next { s with inputs := rest, txFail := txFail, resp := some ⟨some 0, 0x01, none⟩ }

/-- R216 the other way: a command that is not illegal completes with `ill` clear (an empty `REG_TABLE` apart, R5). -/
def Obligations.LegalCommandsAreNotRefused : Prop :=
  ∀ (s : State) (c : Command) (txFail : Bool) (rest : List Event),
    s.inputs = .transaction (.cmd c) txFail :: rest → s.rst = false → 1 ≤ s.par.nreg → ¬ IllegalCommand s c →
    ∃ t r, step s = .next t ∧ t.resp = some r ∧ r.status.getLsbD 0 = false ∧ r.result.isSome

/-- R194: a frame of a wrong length or on an id no slot owns is dropped, and every other frame is accepted: its slot's
feedback is overwritten and `drop` is clear. -/
def Obligations.FramesAreDroppedOrAccepted : Prop :=
  ∀ (s : State) (f : RxFrame) (txFail : Bool) (rest : List Event),
    s.inputs = .transaction (.rx f) txFail :: rest → s.rst = false →
    ((f.len ≠ 8 ∨ rxSlot s f.id = none) →
      step s = .next { s with inputs := rest, txFail := txFail, resp := some ⟨none, 0x08, none⟩ }) ∧
    (∀ k, f.len = 8 → rxSlot s f.id = some k → s.Inv →
      ∃ t r m m', step s = .next t ∧ t.resp = some r ∧ r.status.getLsbD 3 = false ∧
        s.motors[k]? = some m ∧ t.motors[k]? = some m' ∧ m'.fb = feedbackOf m.cfg f.data)

/-- The wires of the port word of an operation are read back as that operation, every operand at every value, the
operands R89 calls illegal among them. -/
def Obligations.PortWiresRoundTrip : Prop :=
  ∀ (i : Instr) (mode : Mode), i.classMatches = true → i.fitsMode mode = true →
    decode mode (PortWord.ofBits (encode i).toBits) = .instr i

/-- Whatever is decoded has the class its constructor names, fits the mode it was read in, and is what its own port
word gives: the bits the operation does not read (R72) play no part. -/
def Obligations.DecodingIsCanonical : Prop :=
  ∀ (mode : Mode) (w : PortWord) (i : Instr), decode mode w = .instr i →
    i.classMatches = true ∧ i.fitsMode mode = true ∧ decode mode (encode i) = .instr i

/-- Words of opcode_table.json, written out from it, name their rows' operations. -/
def Obligations.TableWordsNameTheirRows : Prop :=
  decodeTableWord 8 0b00001 = some (.qenc 0 0 0 0) ∧
  decodeTableWord 8 0b00100 = some (.setmode 0 0) ∧
  decodeTableWord 8 0b01101 = some (.disable 0) ∧
  decodeTableWord 8 0b10001 = some (.regwr 0 0 0) ∧
  decodeTableWord 8 0b10011 = some (.scanstart 0) ∧
  decodeTableWord 8 0b00011 = none ∧
  decodeTableWord 64 0x118A3C8CC5FF1E1C = some (.rxFb 0 ⟨0x11, 0x8A, 0x3C, 0x8C, 0xC5, 0xFF, 0x1E, 0x1C⟩) ∧
  decodeTableWord 64 0x0000330000000000 = some (.rxRsp 0 ⟨0, 0, 0x33, 0, 0, 0, 0, 0⟩)

/-! ## Binary32 arithmetic -/

/-- R14: a finite sum or difference is a nearest binary32 value to the exact one, and on a tie the even pattern. -/
def Obligations.SumsRoundToNearestEven : Prop :=
  (∀ (a b r c : F32), isFinite a → isFinite b → fadd a b = some r → isFinite r → isFinite c →
    (fscaled r - (fscaled a + fscaled b)).natAbs ≤ (fscaled c - (fscaled a + fscaled b)).natAbs ∧
    (fscaled c ≠ fscaled r →
      (fscaled r - (fscaled a + fscaled b)).natAbs = (fscaled c - (fscaled a + fscaled b)).natAbs →
      r.getLsbD 0 = false)) ∧
  (∀ (a b r c : F32), isFinite a → isFinite b → fsub a b = some r → isFinite r → isFinite c →
    (fscaled r - (fscaled a - fscaled b)).natAbs ≤ (fscaled c - (fscaled a - fscaled b)).natAbs ∧
    (fscaled c ≠ fscaled r →
      (fscaled r - (fscaled a - fscaled b)).natAbs = (fscaled c - (fscaled a - fscaled b)).natAbs →
      r.getLsbD 0 = false))

/-- R14: a finite product or quotient is a nearest binary32 value to the exact one (in units of `2^-298`, and scaled by
the divisor), and on a tie the even pattern. -/
def Obligations.ProductsAndQuotientsRoundToNearestEven : Prop :=
  (∀ (a b r c : F32), isFinite a → isFinite b → fmul a b = some r → isFinite r → isFinite c →
    (fscaled r * 2 ^ 149 - fscaled a * fscaled b).natAbs ≤ (fscaled c * 2 ^ 149 - fscaled a * fscaled b).natAbs ∧
    (fscaled c ≠ fscaled r →
      (fscaled r * 2 ^ 149 - fscaled a * fscaled b).natAbs = (fscaled c * 2 ^ 149 - fscaled a * fscaled b).natAbs →
      r.getLsbD 0 = false)) ∧
  (∀ (a b r c : F32), isFinite a → isFinite b → fscaled b ≠ 0 → fdiv a b = some r → isFinite r → isFinite c →
    (fscaled r * fscaled b - fscaled a * 2 ^ 149).natAbs ≤ (fscaled c * fscaled b - fscaled a * 2 ^ 149).natAbs ∧
    (fscaled c ≠ fscaled r →
      (fscaled r * fscaled b - fscaled a * 2 ^ 149).natAbs = (fscaled c * fscaled b - fscaled a * 2 ^ 149).natAbs →
      r.getLsbD 0 = false))

/-- R14: the operations on finite operands give a value, never a NaN (a quotient if the divisor is not zero), and the
value is an infinity exactly if the exact result overflows: if it is at least halfway from the largest finite value,
`(2^24 - 1) * 2^253` units of `2^-149`, to the next step, `2^24 * 2^253`. An infinity has the sign of the exact result. -/
def Obligations.FiniteOperandsGiveValues : Prop :=
  let limit : Nat := (2 ^ 25 - 1) * 2 ^ 252
  (∀ a b : F32, isFinite a → isFinite b → ∃ r, fadd a b = some r ∧ isNaN r = false ∧
    (isInf r ↔ limit ≤ (fscaled a + fscaled b).natAbs) ∧ (isInf r → fsign r = decide (fscaled a + fscaled b < 0))) ∧
  (∀ a b : F32, isFinite a → isFinite b → ∃ r, fsub a b = some r ∧ isNaN r = false ∧
    (isInf r ↔ limit ≤ (fscaled a - fscaled b).natAbs) ∧ (isInf r → fsign r = decide (fscaled a - fscaled b < 0))) ∧
  (∀ a b : F32, isFinite a → isFinite b → ∃ r, fmul a b = some r ∧ isNaN r = false ∧
    (isInf r ↔ limit * 2 ^ 149 ≤ (fscaled a * fscaled b).natAbs) ∧ (isInf r → fsign r = (fsign a != fsign b))) ∧
  (∀ a b : F32, isFinite a → isFinite b → fscaled b ≠ 0 → ∃ r, fdiv a b = some r ∧ isNaN r = false ∧
    (isInf r ↔ limit * (fscaled b).natAbs ≤ (fscaled a).natAbs * 2 ^ 149) ∧
    (isInf r → fsign r = (fsign a != fsign b)))

/-- R14: the special values: a NaN operand gives a NaN; `0/0`, `inf - inf` and `0 * inf` are NaNs; a finite non-zero
value divided by zero is an infinity with the product sign. -/
def Obligations.SpecialValuesOfTheOperations : Prop :=
  (∀ a b : F32, (isNaN a ∨ isNaN b) → fadd a b = none ∧ fsub a b = none ∧ fmul a b = none ∧ fdiv a b = none) ∧
  (∀ a b : F32, isInf a → isInf b → (fsign a = fsign b → fsub a b = none) ∧ (fsign a ≠ fsign b → fadd a b = none)) ∧
  (∀ a b : F32, isInf a → isFinite b → fscaled b = 0 → fmul a b = none ∧ fmul b a = none) ∧
  (∀ a b : F32, isFinite a → isFinite b → fscaled b = 0 →
    (fscaled a = 0 → fdiv a b = none) ∧
    (fscaled a ≠ 0 → ∃ r, fdiv a b = some r ∧ isInf r ∧ fsign r = (fsign a != fsign b)))

/-- R14: `u2f` gives a finite value equal to the integer, below `2^24`. -/
def Obligations.SmallIntegersConvertExactly : Prop :=
  ∀ n : Nat, n < 2 ^ 24 → isFinite (u2f n) ∧ fscaled (u2f n) = n * 2 ^ 149

/-! ## The quantity codec -/

/-- R105 with R107: `QENC`, its select code and operands, its result and its flag. The code is that of R105's pseudocode,
but out of a range with `min <= max` it is `N` above and 0 below, as R107, R213 and C4 say (log 15). -/
def Obligations.QencComputesItsRule : Prop :=
  (∀ (mode : Mode) (slot : Byte) (a0 a1 a2 a3 a4 a5 : Word),
    decode mode (.cmd ⟨0x01, slot, a0, a1, a2, a3, a4, a5⟩) = .instr (.qenc a0 a1 a2 (a3.extractLsb' 0 8))) ∧
  ∀ (value lo hi : F32) (bits : Byte) (s : State), 1 ≤ bits.toNat → bits.toNat ≤ 16 →
    let n := 2 ^ bits.toNat - 1
    let t3 : Option F32 := (fsub value lo).bind fun t1 => (fmul t1 (u2f n)).bind fun t2 =>
      (fsub hi lo).bind fun span => fdiv t2 span
    let q := satTrunc t3 n
    let code := if fle lo hi ∧ flt hi value then n else if fle lo hi ∧ flt value lo then 0 else q.1
    exec (.qenc value lo hi bits) s = .next { s with resp := some ⟨some (BitVec.ofNat 32 code),
      if (fle lo value = true ∧ fle value hi = true) ∧ q.2 = false then 0x00 else 0x02, none⟩ }

/-- R111: `QDEC`, its select code and operands and its result; a NaN result is some NaN pattern (R102, log 6). -/
def Obligations.QdecComputesItsRule : Prop :=
  (∀ (mode : Mode) (slot : Byte) (a0 a1 a2 a3 a4 a5 : Word),
    decode mode (.cmd ⟨0x02, slot, a0, a1, a2, a3, a4, a5⟩) = .instr (.qdec a0 a1 a2 (a3.extractLsb' 0 8))) ∧
  ∀ (raw : Word) (lo hi : F32) (bits : Byte) (s : State), 1 ≤ bits.toNat → bits.toNat ≤ 16 →
    raw.toNat ≤ 2 ^ bits.toNat - 1 →
    ∃ v : F32, exec (.qdec raw lo hi bits) s = .next { s with resp := some ⟨some v, 0x00, none⟩ } ∧
      match (fsub hi lo).bind fun span => (fmul (u2f raw.toNat) span).bind fun u1 =>
        (fdiv u1 (u2f (2 ^ bits.toNat - 1))).bind fun u2 => fadd u2 lo with
      | some u3 => v = u3
      | none => isNaN v = true

/-- R86, R100: a code is below `2^bits`, for any operands, so it fits its field. -/
def Obligations.QencCodeFitsItsField : Prop :=
  ∀ (value lo hi : F32) (bits : Byte), (quantEncode value lo hi bits).1 < 2 ^ bits.toNat

/-- R106: an in-range value of a range of ordinary size is encoded without a flag, and its code is the truncated
quotient, in `0..N`. The size of the range is the exact `max - min`, in units of `2^-149`. -/
def Obligations.QencInRangeIsExactTruncation : Prop :=
  ∀ (value lo hi : F32) (bits : Byte), 1 ≤ bits.toNat → bits.toNat ≤ 16 →
    isFinite lo → isFinite hi → isFinite value → fle lo value → fle value hi →
    (2 : Int) ^ 49 ≤ fscaled hi - fscaled lo → fscaled hi - fscaled lo ≤ (2 : Int) ^ 249 →
    (quantEncode value lo hi bits).2 = false ∧
    ∃ t3, quantQuotient value lo hi (2 ^ bits.toNat - 1) = some t3 ∧ isFinite t3 ∧
      ((quantEncode value lo hi bits).1 : Int) = ftrunc t3 ∧ (quantEncode value lo hi bits).1 ≤ 2 ^ bits.toNat - 1

/-- R109: the code does not decrease as the value increases, infinities included. -/
def Obligations.QencIsMonotone : Prop :=
  ∀ (v w lo hi : F32) (bits : Byte), 1 ≤ bits.toNat → bits.toNat ≤ 16 → isFinite lo → isFinite hi → flt lo hi →
    fle v w → (quantEncode v lo hi bits).1 ≤ (quantEncode w lo hi bits).1

/-- R106, at the lower end: `QENC(min, ...)` is 0 without a flag, for every finite `min < max`. -/
def Obligations.QencOfTheMinimumIsZero : Prop :=
  ∀ (lo hi : F32) (bits : Byte), 1 ≤ bits.toNat → bits.toNat ≤ 16 → isFinite lo → isFinite hi → flt lo hi →
    quantEncode lo lo hi bits = (0, false)

/-- Out of a range with `min <= max`, infinite limits and `+0.0..-0.0` included (reversed limits are R108's): below, the code
is 0 and flagged; above, it is `N` and flagged; a NaN is 0 and flagged (R107, R213). That these codes stand where the
pseudocode of R105 gives others, and for infinite limits, where R108 promises no more than a code in `0..N`, is the model's
choice (DEDUCED, log 15). -/
def Obligations.QencOutOfRangeIsFlagged : Prop :=
  ∀ (value lo hi : F32) (bits : Byte), 1 ≤ bits.toNat → bits.toNat ≤ 16 → fle lo hi →
    (flt value lo → quantEncode value lo hi bits = (0, true)) ∧
    (flt hi value → quantEncode value lo hi bits = (2 ^ bits.toNat - 1, true)) ∧
    (isNaN value → quantEncode value lo hi bits = (0, true))

/-- R108: degenerate ranges. A NaN limit gives 0 flagged; reversed limits always flag; equal finite limits flag, with
code 0 at or below them and `N` above. -/
def Obligations.QencOnDegenerateRanges : Prop :=
  (∀ (value lo hi : F32) (bits : Byte), (isNaN lo ∨ isNaN hi) → quantEncode value lo hi bits = (0, true)) ∧
  (∀ (value lo hi : F32) (bits : Byte), flt hi lo → (quantEncode value lo hi bits).2 = true) ∧
  (∀ (value lim : F32) (bits : Byte), 1 ≤ bits.toNat → bits.toNat ≤ 16 → isFinite value → isFinite lim →
    (fle value lim → quantEncode value lim lim bits = (0, true)) ∧
    (flt lim value → quantEncode value lim lim bits = (2 ^ bits.toNat - 1, true)))

/-- R112: `QDEC(0, ...)` is `min` exactly, `+0.0` for `min = -0.0`, where the span does not overflow (log 15). -/
def Obligations.QdecOfZeroIsTheMinimum : Prop :=
  ∀ (lo hi span : F32) (bits : Byte), 1 ≤ bits.toNat → bits.toNat ≤ 16 → isFinite lo → isFinite hi → flt lo hi →
    fsub hi lo = some span → isFinite span →
    quantDecode 0 lo hi bits = if lo = 0x80000000 then 0x00000000 else lo

/-- R113: a NaN limit makes `QDEC` return a NaN, of whatever pattern (log 6). -/
def Obligations.QdecOfNaNLimitsIsNaN : Prop :=
  ∀ (raw : Word) (lo hi : F32) (bits : Byte), (isNaN lo ∨ isNaN hi) → isNaN (quantDecode raw lo hi bits) = true

/-! ## The mode and the targets -/

/-- R190: `SETMODE`: a code 0 to 3 becomes the slot's mode and nothing else changes; a code above 3 is refused. -/
def Obligations.SetmodeWritesTheMode : Prop :=
  (∀ (mode : Mode) (slot : Byte) (a0 a1 a2 a3 a4 a5 : Word),
    decode mode (.cmd ⟨0x04, slot, a0, a1, a2, a3, a4, a5⟩) = .instr (.setmode slot (a0.extractLsb' 0 8))) ∧
  ∀ (slot code : Byte) (s : State) (m : Motor), s.motors[slot.toNat]? = some m →
    (code.toNat ≤ 3 → ∃ mode : Mode, (modeCode mode).toNat = code.toNat ∧
      exec (.setmode slot code) s = .next { s with
        motors := s.motors.set slot.toNat { m with mode := mode }
        resp := some ⟨some 0, 0x00, none⟩ }) ∧
    (3 < code.toNat → exec (.setmode slot code) s = .next { s with resp := some ⟨some 0, 0x01, none⟩ })

/-- R191: `SETTGT` writes all six targets, any patterns, and nothing else. -/
def Obligations.SettgtWritesAllSixTargets : Prop :=
  (∀ (mode : Mode) (slot : Byte) (a0 a1 a2 a3 a4 a5 : Word),
    decode mode (.cmd ⟨0x05, slot, a0, a1, a2, a3, a4, a5⟩) = .instr (.settgt slot a0 a1 a2 a3 a4 a5)) ∧
  ∀ (slot : Byte) (pos vel kp kd torque current : F32) (s : State) (m : Motor), s.motors[slot.toNat]? = some m →
    exec (.settgt slot pos vel kp kd torque current) s = .next { s with
      motors := s.motors.set slot.toNat { m with tgt := ⟨pos, vel, kp, kd, torque, current⟩ }
      resp := some ⟨some 0, 0x00, none⟩ }

/-! ## Control frames -/

/-- R122 (with R120, R121): `CTRL.MIT` emits the five codes packed most significant bit first, to `ID + OFF_MIT`, and
flags `ovf` if any of the five did; no state changes. -/
def Obligations.CtrlMitSendsItsFrame : Prop :=
  (∀ (slot : Byte) (a0 a1 a2 a3 a4 a5 : Word),
    decode .mit (.cmd ⟨0x08, slot, a0, a1, a2, a3, a4, a5⟩) = .instr (.ctrlMit slot)) ∧
  ∀ (slot : Byte) (s : State) (m : Motor), s.motors[slot.toNat]? = some m → m.mode = .mit →
    let p := quantEncode m.tgt.pos (fneg m.cfg.pMax) m.cfg.pMax 16
    let v := quantEncode m.tgt.vel (fneg m.cfg.vMax) m.cfg.vMax 12
    let kp := quantEncode m.tgt.kp s.par.kpMin s.par.kpMax 12
    let kd := quantEncode m.tgt.kd s.par.kdMin s.par.kdMax 12
    let t := quantEncode m.tgt.torque (fneg m.cfg.tMax) m.cfg.tMax 12
    ∃ data : Payload,
      data.toBits = (BitVec.ofNat 16 p.1 ++ BitVec.ofNat 12 v.1 ++ BitVec.ofNat 12 kp.1 ++ BitVec.ofNat 12 kd.1
        ++ BitVec.ofNat 12 t.1 : BitVec 64) ∧
      exec (.ctrlMit slot) s = .next { s with resp := some ⟨some 0,
        (if p.2 || v.2 || kp.2 || kd.2 || t.2 then 0x02 else 0x00) + (if s.txFail then 0x04 else 0x00),
        some ⟨m.cfg.id + s.par.offMit, 8, data⟩⟩ }

/-- R124: `CTRL.POS` emits position and velocity bit for bit, little-endian, to `ID + OFF_POS`; no state changes. -/
def Obligations.CtrlPosSendsItsFrame : Prop :=
  (∀ (slot : Byte) (a0 a1 a2 a3 a4 a5 : Word),
    decode .position (.cmd ⟨0x08, slot, a0, a1, a2, a3, a4, a5⟩) = .instr (.ctrlPos slot)) ∧
  ∀ (slot : Byte) (s : State) (m : Motor), s.motors[slot.toNat]? = some m → m.mode = .position →
    exec (.ctrlPos slot) s = .next { s with resp := some ⟨some 0, if s.txFail then 0x04 else 0x00,
      some ⟨m.cfg.id + s.par.offPos, 8,
        ⟨m.tgt.pos.extractLsb' 0 8, m.tgt.pos.extractLsb' 8 8, m.tgt.pos.extractLsb' 16 8, m.tgt.pos.extractLsb' 24 8,
         m.tgt.vel.extractLsb' 0 8, m.tgt.vel.extractLsb' 8 8, m.tgt.vel.extractLsb' 16 8,
         m.tgt.vel.extractLsb' 24 8⟩⟩⟩ }

/-- R126: `CTRL.SPD` emits the velocity alone, 4 bytes, to `ID + OFF_SPD`; no state changes. -/
def Obligations.CtrlSpdSendsItsFrame : Prop :=
  (∀ (slot : Byte) (a0 a1 a2 a3 a4 a5 : Word),
    decode .speed (.cmd ⟨0x08, slot, a0, a1, a2, a3, a4, a5⟩) = .instr (.ctrlSpd slot)) ∧
  ∀ (slot : Byte) (s : State) (m : Motor), s.motors[slot.toNat]? = some m → m.mode = .speed →
    exec (.ctrlSpd slot) s = .next { s with resp := some ⟨some 0, if s.txFail then 0x04 else 0x00,
      some ⟨m.cfg.id + s.par.offSpd, 4,
        ⟨m.tgt.vel.extractLsb' 0 8, m.tgt.vel.extractLsb' 8 8, m.tgt.vel.extractLsb' 16 8, m.tgt.vel.extractLsb' 24 8,
         0x00, 0x00, 0x00, 0x00⟩⟩⟩ }

/-- R129 (with R128): `CTRL.PSC` emits the position bit for bit and the velocity times 100.0 and the current times
10000.0 as u16, truncated and saturated, to `ID + OFF_PSC`; no state changes. -/
def Obligations.CtrlPscSendsItsFrame : Prop :=
  (∀ (slot : Byte) (a0 a1 a2 a3 a4 a5 : Word),
    decode .positionSpeedCurrent (.cmd ⟨0x08, slot, a0, a1, a2, a3, a4, a5⟩) = .instr (.ctrlPsc slot)) ∧
  ∀ (slot : Byte) (s : State) (m : Motor), s.motors[slot.toNat]? = some m → m.mode = .positionSpeedCurrent →
    let v := satTrunc (fmul m.tgt.vel 0x42C80000) 65535
    let i := satTrunc (fmul m.tgt.current 0x461C4000) 65535
    exec (.ctrlPsc slot) s = .next { s with resp := some ⟨some 0,
      (if v.2 || i.2 then 0x02 else 0x00) + (if s.txFail then 0x04 else 0x00),
      some ⟨m.cfg.id + s.par.offPsc, 8,
        ⟨m.tgt.pos.extractLsb' 0 8, m.tgt.pos.extractLsb' 8 8, m.tgt.pos.extractLsb' 16 8, m.tgt.pos.extractLsb' 24 8,
         BitVec.ofNat 8 (v.1 % 256), BitVec.ofNat 8 (v.1 / 256),
         BitVec.ofNat 8 (i.1 % 256), BitVec.ofNat 8 (i.1 / 256)⟩⟩⟩ }

/-- R201, R131: a control frame depends on the slot's mode, the target fields that mode transmits, `ID`, for `Mit` the
limits, and the parameters; on nothing else of the slot, of other slots or of what came before. -/
def Obligations.ControlFramesReadOnlyTheirModesFields : Prop :=
  ∀ (s t s' t' : State) (slot : Byte) (m n : Motor), s.par = t.par →
    s.motors[slot.toNat]? = some m → t.motors[slot.toNat]? = some n → m.mode = n.mode → m.cfg.id = n.cfg.id →
    (m.mode = .mit → m.cfg.pMax = n.cfg.pMax ∧ m.cfg.vMax = n.cfg.vMax ∧ m.cfg.tMax = n.cfg.tMax) →
    agreeOnRead m.mode m.tgt n.tgt →
    exec (ctrlInstr m.mode slot) s = .next s' → exec (ctrlInstr m.mode slot) t = .next t' →
    ∃ r r' f, s'.resp = some r ∧ t'.resp = some r' ∧ r.frame = some f ∧ r'.frame = some f ∧
      (m.mode = .speed → f.len = 4)

/-! ## Mode commands -/

/-- R142, R144, R145: `ENABLE`, `SAVEZERO` and `CLRERR` emit their sentinel to the id of the slot's current mode, and
change no state. -/
def Obligations.ModeCommandsSendTheirSentinels : Prop :=
  (∀ (mode : Mode) (slot : Byte) (a0 a1 a2 a3 a4 a5 : Word),
    decode mode (.cmd ⟨0x0C, slot, a0, a1, a2, a3, a4, a5⟩) = .instr (.enable slot) ∧
    decode mode (.cmd ⟨0x0E, slot, a0, a1, a2, a3, a4, a5⟩) = .instr (.savezero slot) ∧
    decode mode (.cmd ⟨0x0B, slot, a0, a1, a2, a3, a4, a5⟩) = .instr (.clrerr slot)) ∧
  ∀ (slot : Byte) (s : State) (m : Motor), s.motors[slot.toNat]? = some m →
    let sent (c : Byte) : State := { s with resp := some ⟨some 0, if s.txFail then 0x04 else 0x00,
      some ⟨m.cfg.id + modeOffset s.par m.mode, 8, ⟨0xFF, 0xFF, 0xFF, 0xFF, 0xFF, 0xFF, 0xFF, c⟩⟩⟩ }
    exec (.enable slot) s = .next (sent 0xFC) ∧ exec (.savezero slot) s = .next (sent 0xFE) ∧
    exec (.clrerr slot) s = .next (sent 0xFB)

/-- R143: `DISABLE` emits its sentinel and zeroes the slot's six targets, whatever the transport answers. -/
def Obligations.DisableClearsTheTargets : Prop :=
  (∀ (mode : Mode) (slot : Byte) (a0 a1 a2 a3 a4 a5 : Word),
    decode mode (.cmd ⟨0x0D, slot, a0, a1, a2, a3, a4, a5⟩) = .instr (.disable slot)) ∧
  ∀ (slot : Byte) (s : State) (m : Motor), s.motors[slot.toNat]? = some m →
    exec (.disable slot) s = .next { s with
      motors := s.motors.set slot.toNat { m with tgt := ⟨0, 0, 0, 0, 0, 0⟩ }
      resp := some ⟨some 0, if s.txFail then 0x04 else 0x00,
        some ⟨m.cfg.id + modeOffset s.par m.mode, 8, ⟨0xFF, 0xFF, 0xFF, 0xFF, 0xFF, 0xFF, 0xFF, 0xFD⟩⟩⟩ }

/-! ## The register protocol -/

/-- R161: `REGRD` emits `[id_low, id_high, 0x33, rid]`, 4 bytes, to `MGMT_ID`; no state changes. -/
def Obligations.RegrdSendsItsFrame : Prop :=
  (∀ (mode : Mode) (slot : Byte) (a0 a1 a2 a3 a4 a5 : Word),
    decode mode (.cmd ⟨0x10, slot, a0, a1, a2, a3, a4, a5⟩) = .instr (.regrd slot (a0.extractLsb' 0 8))) ∧
  ∀ (slot rid : Byte) (s : State) (m : Motor), s.motors[slot.toNat]? = some m →
    exec (.regrd slot rid) s = .next { s with resp := some ⟨some 0, if s.txFail then 0x04 else 0x00,
      some ⟨s.par.mgmtId, 4, ⟨m.cfg.id.extractLsb' 0 8, m.cfg.id.extractLsb' 8 8, 0x33, rid, 0, 0, 0, 0⟩⟩⟩ }

/-- R163: `REGWR` emits `[id_low, id_high, 0x55, rid]` and the data little-endian, to `MGMT_ID`; no state changes. -/
def Obligations.RegwrSendsItsFrame : Prop :=
  (∀ (mode : Mode) (slot : Byte) (a0 a1 a2 a3 a4 a5 : Word),
    decode mode (.cmd ⟨0x11, slot, a0, a1, a2, a3, a4, a5⟩) = .instr (.regwr slot (a0.extractLsb' 0 8) a1)) ∧
  ∀ (slot rid : Byte) (data : Word) (s : State) (m : Motor), s.motors[slot.toNat]? = some m →
    exec (.regwr slot rid data) s = .next { s with resp := some ⟨some 0, if s.txFail then 0x04 else 0x00,
      some ⟨s.par.mgmtId, 8, ⟨m.cfg.id.extractLsb' 0 8, m.cfg.id.extractLsb' 8 8, 0x55, rid,
        data.extractLsb' 0 8, data.extractLsb' 8 8, data.extractLsb' 16 8, data.extractLsb' 24 8⟩⟩⟩ }

/-- R165: `REGSAVE` emits `[id_low, id_high, 0xAA, 0x01]`, 4 bytes, to `MGMT_ID`; no state changes. -/
def Obligations.RegsaveSendsItsFrame : Prop :=
  (∀ (mode : Mode) (slot : Byte) (a0 a1 a2 a3 a4 a5 : Word),
    decode mode (.cmd ⟨0x12, slot, a0, a1, a2, a3, a4, a5⟩) = .instr (.regsave slot)) ∧
  ∀ (slot : Byte) (s : State) (m : Motor), s.motors[slot.toNat]? = some m →
    exec (.regsave slot) s = .next { s with resp := some ⟨some 0, if s.txFail then 0x04 else 0x00,
      some ⟨s.par.mgmtId, 4, ⟨m.cfg.id.extractLsb' 0 8, m.cfg.id.extractLsb' 8 8, 0xAA, 0x01, 0, 0, 0, 0⟩⟩⟩ }

/-! ## The sequencer and the received frames -/

/-- R177: `SCANSTART` sets the cursor to 1 from any value, whatever the transport answers, and requests the first entry
of `REG_TABLE`; nothing else changes. -/
def Obligations.ScanstartRequestsTheFirstEntry : Prop :=
  (∀ (mode : Mode) (slot : Byte) (a0 a1 a2 a3 a4 a5 : Word),
    decode mode (.cmd ⟨0x13, slot, a0, a1, a2, a3, a4, a5⟩) = .instr (.scanstart slot)) ∧
  ∀ (slot : Byte) (s : State) (m : Motor) (first : RegEntry) (others : List RegEntry),
    s.motors[slot.toNat]? = some m → s.par.regTable = first :: others →
    exec (.scanstart slot) s = .next { s with
      motors := s.motors.set slot.toNat { m with cursor := 1 }
      resp := some ⟨some 0, if s.txFail then 0x04 else 0x00,
        some ⟨s.par.mgmtId, 4,
          ⟨m.cfg.id.extractLsb' 0 8, m.cfg.id.extractLsb' 8 8, 0x33, first.rid, 0, 0, 0, 0⟩⟩⟩ }

/-- R151 to R154: an accepted feedback frame, written as its seven fields most significant bit first, overwrites the
slot's feedback with those fields, their `QDEC` and the two temperatures, and changes nothing else. -/
def Obligations.FeedbackFramesAreDecoded : Prop :=
  ∀ (s : State) (rxId : Id16) (k : Nat) (m : Motor) (st ide : BitVec 4) (rp : BitVec 16) (rv rt : BitVec 12)
    (tm tc : Byte), rxSlot s rxId = some k → s.motors[k]? = some m → rp.extractLsb' 0 8 ≠ 0x33 →
    exec (.rxFb rxId (Payload.ofBits (st ++ ide ++ rp ++ rv ++ rt ++ tm ++ tc))) s = .next { s with
      motors := s.motors.set k { m with fb :=
        { rawPos := rp, rawVel := rv, rawTor := rt
          pos := quantDecode (rp.setWidth 32) (fneg m.cfg.pMax) m.cfg.pMax 16
          vel := quantDecode (rv.setWidth 32) (fneg m.cfg.vMax) m.cfg.vMax 12
          tor := quantDecode (rt.setWidth 32) (fneg m.cfg.tMax) m.cfg.tMax 12
          tMos := u2f tm.toNat, tCoil := u2f tc.toNat
          state := st.setWidth 8, idEcho := ide.setWidth 8 } }
      resp := some ⟨none, 0x00, none⟩ }

/-- R178: the expected read-response stores its little-endian value, advances the cursor, or returns it to `Idle` from
the last entry, and requests the next entry, if any, whatever the transport answers. The feedback stage has run (R195). -/
def Obligations.ExpectedResponsesAdvanceTheScan : Prop :=
  ∀ (s : State) (rxId : Id16) (k n : Nat) (m : Motor) (b0 b1 : Byte) (val : Word) (e : RegEntry),
    rxSlot s rxId = some k → s.motors[k]? = some m → m.cursor = n + 1 → s.par.regTable[n]? = some e →
    let data : Payload := ⟨b0, b1, 0x33, e.rid, val.extractLsb' 0 8, val.extractLsb' 8 8, val.extractLsb' 16 8,
      val.extractLsb' 24 8⟩
    (∀ e', s.par.regTable[n + 1]? = some e' →
      exec (.rxRsp rxId data) s = .next { s with
        motors := s.motors.set k { m with fb := feedbackOf m.cfg data, cache := m.cache.set n val, cursor := n + 2 }
        resp := some ⟨none, 0x20 + (if s.txFail then 0x04 else 0x00), some ⟨s.par.mgmtId, 4,
          ⟨m.cfg.id.extractLsb' 0 8, m.cfg.id.extractLsb' 8 8, 0x33, e'.rid, 0, 0, 0, 0⟩⟩⟩ }) ∧
    (s.par.regTable[n + 1]? = none →
      exec (.rxRsp rxId data) s = .next { s with
        motors := s.motors.set k { m with fb := feedbackOf m.cfg data, cache := m.cache.set n val, cursor := 0 }
        resp := some ⟨none, 0x20, none⟩ })

/-- R179: a read-response with another register id than the expected one changes no cursor and no cache, emits nothing
and flags `desync`; only the feedback stage has an effect. -/
def Obligations.MismatchedResponsesAreDesync : Prop :=
  ∀ (s : State) (rxId : Id16) (k n : Nat) (m : Motor) (data : Payload) (e : RegEntry),
    rxSlot s rxId = some k → s.motors[k]? = some m → m.cursor = n + 1 → s.par.regTable[n]? = some e →
    data.b2 = 0x33 → data.b3 ≠ e.rid →
    exec (.rxRsp rxId data) s = .next { s with
      motors := s.motors.set k { m with fb := feedbackOf m.cfg data }
      resp := some ⟨none, 0x10, none⟩ }

/-- R180: a read-response in `Idle` changes no cursor and no cache, emits nothing and flags nothing. -/
def Obligations.ResponsesInIdleAreIgnored : Prop :=
  ∀ (s : State) (rxId : Id16) (k : Nat) (m : Motor) (data : Payload),
    rxSlot s rxId = some k → s.motors[k]? = some m → m.cursor = 0 → data.b2 = 0x33 →
    exec (.rxRsp rxId data) s = .next { s with
      motors := s.motors.set k { m with fb := feedbackOf m.cfg data }
      resp := some ⟨none, 0x00, none⟩ }

/-- R183: from `Reading(1)`, the responses of the table in order take the cursor through `2, 3, ..., NREG, 0`, one each,
write the cache words in order, and request entries `2` to `NREG` in order, the last response requesting nothing. -/
def Obligations.InOrderResponsesCompleteTheScan : Prop :=
  ∀ (s : State) (rxId : Id16) (k : Nat) (m : Motor) (b0 b1 : Byte) (txFail : Bool) (vals : List Word),
    s.Inv → s.rst = false → rxSlot s rxId = some k → s.motors[k]? = some m → m.cursor = 1 →
    vals.length = s.par.nreg → s.inputs = scanResponses rxId b0 b1 txFail s.par.regTable vals →
    ∀ j, j < s.par.nreg → ∃ t n r, Host.Core.run core (j + 1) s = .next t ∧ t.motors[k]? = some n ∧
      t.resp = some r ∧
      n.cursor = (if j + 1 < s.par.nreg then j + 2 else 0) ∧
      n.cache = vals.take (j + 1) ++ m.cache.drop (j + 1) ∧
      r.frame = (s.par.regTable[j + 1]?).map fun e => ⟨s.par.mgmtId, 4,
        ⟨m.cfg.id.extractLsb' 0 8, m.cfg.id.extractLsb' 8 8, 0x33, e.rid, 0, 0, 0, 0⟩⟩

/-- R185: the same response delivered twice: after the first advanced the cursor from `n` to `n + 1`, the second flags
`desync` and changes neither the cursor nor the cache. -/
def Obligations.LateDuplicatesAreDesync : Prop :=
  ∀ (s t : State) (rxId : Id16) (k n : Nat) (m m' : Motor) (data : Payload) (e : RegEntry),
    (s.par.regTable.map RegEntry.rid).Nodup → rxSlot s rxId = some k → s.motors[k]? = some m → m.cursor = n + 1 →
    n + 1 < s.par.nreg → s.par.regTable[n]? = some e → data.b2 = 0x33 → data.b3 = e.rid →
    exec (.rxRsp rxId data) s = .next t → t.motors[k]? = some m' →
    m'.cursor = n + 2 ∧
    ∃ u m'', exec (.rxRsp rxId data) t = .next u ∧ u.motors[k]? = some m'' ∧ m''.cursor = n + 2 ∧
      m''.cache = m'.cache ∧ u.resp = some ⟨none, 0x10, none⟩

/-- R7, R194: the default `RX_MAP` is the lowest slot whose `MASTER_ID` is the received id; any other `RX_MAP` is what the
first pair of its table that names the id says, or none where that is no slot of the registry (log 3). -/
def Obligations.RxMapPicksTheOwningSlot : Prop :=
  (∀ (s : State) (id : Id16) (k : Nat), s.par.rxMap = .byMasterId →
    (rxSlot s id = some k ↔ (∃ m, s.motors[k]? = some m ∧ m.cfg.masterId = id) ∧
      ∀ j m, j < k → s.motors[j]? = some m → m.cfg.masterId ≠ id)) ∧
  ∀ (s : State) (id : Id16) (k : Nat) (pairs : List (Id16 × Nat)), s.par.rxMap = .table pairs →
    (rxSlot s id = some k ↔ k < s.nmotor ∧
      ∃ before after, pairs = before ++ (id, k) :: after ∧ ∀ p ∈ before, p.1 ≠ id)

/-! ## Status words and frames -/

/-- R211: the status words that occur, for a command and for an RX transaction; `ovf` from `QENC` and the `CTRL` of two
modes only, `tx_err` with a frame only, and never from `QENC` or `QDEC`, which name no slot. -/
def Obligations.StatusWordsThatOccur : Prop :=
  ∀ (i : Instr) (s t : State), exec i s = .next t → ∃ r, t.resp = some r ∧
    match receivedId i with
    | none => r.status ∈ [0x00, 0x01, 0x02, 0x04, 0x06] ∧
      (r.status.getLsbD 1 = true → (∃ v lo hi b, i = .qenc v lo hi b) ∨
        ∃ slot m, (i = .ctrlMit slot ∨ i = .ctrlPos slot ∨ i = .ctrlSpd slot ∨ i = .ctrlPsc slot) ∧
          s.motors[slot.toNat]? = some m ∧ (m.mode = .mit ∨ m.mode = .positionSpeedCurrent)) ∧
      (r.status.getLsbD 2 = true → r.frame.isSome ∧ (slotOperand i).isSome)
    | some _ => r.status ∈ [0x00, 0x08, 0x10, 0x20, 0x24] ∧ (r.status.getLsbD 2 = true → r.frame.isSome)

/-- R200, R212: the transport's answer changes `tx_err` of an emitting transaction and nothing else: not the registry,
not the result, not the frame, not another status bit. -/
def Obligations.TransportAnswerOnlySetsTxErr : Prop :=
  ∀ (i : Instr) (s t : State), exec i { s with txFail := false } = .next t →
    ∃ u r r', exec i { s with txFail := true } = .next u ∧ t.resp = some r ∧ u.resp = some r' ∧
      u.motors = t.motors ∧ u.par = t.par ∧ r'.result = r.result ∧ r'.frame = r.frame ∧
      r'.status = r.status ||| (if r.frame.isSome then 0x04 else 0x00)

/-- R83: a frame is 8 bytes, or 4 with `B4..B7` driven `0x00`. -/
def Obligations.FramesHaveTheirLengths : Prop :=
  ∀ (i : Instr) (s t : State) (r : Response) (f : Frame), exec i s = .next t → t.resp = some r → r.frame = some f →
    f.len = 8 ∨
    (f.len = 4 ∧ f.data.b4 = 0x00 ∧ f.data.b5 = 0x00 ∧ f.data.b6 = 0x00 ∧ f.data.b7 = 0x00)

/-- R61, R84: a frame goes to `MGMT_ID` or to `ID + off(mode)` of the slot the operation names; and where R8 (b) holds,
only register-protocol and RX operations reach `MGMT_ID`. -/
def Obligations.FramesGoToTheirDestinations : Prop :=
  ∀ (i : Instr) (s t : State) (r : Response) (f : Frame), exec i s = .next t → t.resp = some r → r.frame = some f →
    ∃ k m, namedSlot s i = some k ∧ s.motors[k]? = some m ∧
      (f.id = s.par.mgmtId ∨ f.id = m.cfg.id + modeOffset s.par m.mode) ∧
      (s.IdsLegal → (f.id = s.par.mgmtId ↔ (receivedId i).isSome ∨
        ∃ slot, (∃ rid, i = .regrd slot rid) ∨ (∃ rid data, i = .regwr slot rid data) ∨ i = .regsave slot ∨
          i = .scanstart slot))

/-! ## Ownership and isolation -/

/-- R198: which operation may write which field of a slot; the configuration inputs are written by none. -/
def Obligations.FieldsAreWrittenByTheirOwners : Prop :=
  ∀ (i : Instr) (s t : State) (k : Nat) (m m' : Motor), exec i s = .next t →
    s.motors[k]? = some m → t.motors[k]? = some m' →
    m'.cfg = m.cfg ∧
    (m'.mode ≠ m.mode → ∃ slot code, i = .setmode slot code ∧ slot.toNat = k) ∧
    (m'.tgt ≠ m.tgt → ∃ slot, slot.toNat = k ∧
      (i = .disable slot ∨ ∃ a b c d e f, i = .settgt slot a b c d e f)) ∧
    (m'.fb ≠ m.fb → ∃ rxId data, (i = .rxFb rxId data ∨ i = .rxRsp rxId data) ∧ rxSlot s rxId = some k) ∧
    (m'.cache ≠ m.cache → ∃ rxId data n e, (i = .rxFb rxId data ∨ i = .rxRsp rxId data) ∧ rxSlot s rxId = some k ∧
      data.b2 = 0x33 ∧ m.cursor = n + 1 ∧ s.par.regTable[n]? = some e ∧ data.b3 = e.rid) ∧
    (m'.cursor ≠ m.cursor → (∃ slot, i = .scanstart slot ∧ slot.toNat = k ∧ m'.cursor = 1) ∨
      ∃ rxId data n e, (i = .rxFb rxId data ∨ i = .rxRsp rxId data) ∧ rxSlot s rxId = some k ∧
        data.b2 = 0x33 ∧ m.cursor = n + 1 ∧ s.par.regTable[n]? = some e ∧ data.b3 = e.rid)

/-- R202 (and R46): an operation leaves every slot it does not name as it was, whatever condition it meets, and so does a
whole transaction, refused and dropped ones among them. -/
def Obligations.OtherSlotsAreUntouched : Prop :=
  (∀ (i : Instr) (s t : State), exec i s = .next t →
    t.par = s.par ∧ t.rst = s.rst ∧ t.inputs = s.inputs ∧ t.motors.length = s.motors.length ∧
    ∀ k, namedSlot s i ≠ some k → t.motors[k]? = s.motors[k]?) ∧
  ∀ (s t : State) (w : PortWord) (txFail : Bool) (rest : List Event),
    s.inputs = .transaction w txFail :: rest → s.rst = false → step s = .next t →
    ∀ k, wordSlot s w ≠ some k → t.motors[k]? = s.motors[k]?

/-- R222: two transactions that name different slots commute: in either order the same registry and the same outputs
of each. -/
def Obligations.TransactionsOnDifferentSlotsCommute : Prop :=
  ∀ (s : State) (x y : PortWord) (a b : Bool) (k l : Nat) (s₁ s₂ t₁ t₂ : State),
    s.rst = false → wordSlot s x = some k → wordSlot s y = some l → k ≠ l →
    step { s with inputs := [.transaction x a, .transaction y b] } = .next s₁ → step s₁ = .next s₂ →
    step { s with inputs := [.transaction y b, .transaction x a] } = .next t₁ → step t₁ = .next t₂ →
    s₂.motors = t₂.motors ∧ s₂.par = t₂.par ∧ s₁.resp = t₂.resp ∧ s₂.resp = t₁.resp

/-! ## The invariant -/

/-- The state after reset meets the invariant, for all parameters with a register to read and any configuration of 1 to
256 slots. -/
def Obligations.ResetMeetsTheInvariant : Prop :=
  ∀ (par : Params) (cfgs : List SlotConfig), 1 ≤ par.nreg → 1 ≤ cfgs.length → cfgs.length ≤ 256 →
    (State.resetWith par cfgs).Inv

/-- R5, R30 to R36: every step, from any state that meets the invariant, leaves a state that meets it. -/
def Obligations.StepsKeepTheInvariant : Prop :=
  ∀ s t : State, s.Inv → step s = .next t → t.Inv

/-- No step from a state that meets the invariant stops: every transaction completes (R223). -/
def Obligations.InvariantStatesNeverStop : Prop :=
  ∀ s : State, s.Inv → SafeStep s

/-! ## Reset and constants -/

/-- R44: every mutable field of every slot is zero after reset, for all parameters and configuration inputs. -/
def Obligations.ResetStateIsZero : Prop :=
  ∀ (par : Params) (cfgs : List SlotConfig) (k : Nat) (cfg : SlotConfig), cfgs[k]? = some cfg →
    (State.resetWith par cfgs).motors[k]? =
      some ⟨cfg, .mit, ⟨0, 0, 0, 0, 0, 0⟩, ⟨0, 0, 0, 0, 0, 0, 0, 0, 0, 0⟩, List.replicate par.regTable.length 0, 0⟩ ∧
    modeCode .mit = 0

/-- R240, R241: releasing `rst` zeroes every mutable field of every slot from any state, samples the configuration
inputs, emits no frame, and changes neither the parameters nor the number of slots. (That it does so also where `rst` was
not asserted is the model's choice, log 7.) -/
def Obligations.ReleaseOfResetZeroesEverySlot : Prop :=
  ∀ (s : State) (cfgs : List SlotConfig) (rest : List Event), s.inputs = .releaseReset cfgs :: rest →
    cfgs.length = s.nmotor →
    step s = .next { State.resetWith s.par cfgs with inputs := rest, txFail := s.txFail }

/-- The assertion of `rst` asserts it, with no output and no other effect yet, and while `rst` is asserted a transaction
has no effect and no answer (R240; that the registry stays until the release, and that the word offered is used up, is the
model's choice, log 7). -/
def Obligations.NothingIsAcceptedInReset : Prop :=
  (∀ (s : State) (rest : List Event), s.inputs = .assertReset :: rest →
    step s = .next { s with inputs := rest, rst := true, resp := none }) ∧
  ∀ (s : State) (w : PortWord) (txFail : Bool) (rest : List Event), s.rst = true →
    s.inputs = .transaction w txFail :: rest → step s = .next { s with inputs := rest, resp := none }

/-- R26, R40, R241: no step changes the parameters or the number of slots, and only the release of `rst` changes a
slot's configuration inputs; so every other step keeps the premises of R5 and R8. -/
def Obligations.ParametersAndConfigurationAreConstant : Prop :=
  ∀ s t : State, step s = .next t → t.par = s.par ∧ t.nmotor = s.nmotor ∧
    (t.motors.map Motor.cfg ≠ s.motors.map Motor.cfg → ∃ cfgs rest, s.inputs = .releaseReset cfgs :: rest) ∧
    (s.Legal → (∀ cfgs rest, s.inputs ≠ .releaseReset cfgs :: rest) → t.Legal)

/-- R245: a decoded frame with raw position 0 does not look like the reset feedback: its position is `-P_MAX`, which is
not zero, for a usable limit whose span does not overflow (log 15). The same of velocity and torque in a state whose
limits are as R8 (e) asks. -/
def Obligations.DecodedFeedbackDiffersFromReset : Prop :=
  (∀ (cfg : SlotConfig) (data : Payload) (span : F32), usableLimit cfg.pMax →
    fsub cfg.pMax (fneg cfg.pMax) = some span → isFinite span → data.b1 = 0 → data.b2 = 0 →
    (feedbackOf cfg data).rawPos = 0 ∧ (feedbackOf cfg data).pos = fneg cfg.pMax ∧ (feedbackOf cfg data).pos ≠ 0 ∧
    Feedback.zero.pos = 0) ∧
  ∀ (s : State) (k : Nat) (m : Motor) (data : Payload) (v t : F32), s.LimitsUsable → s.motors[k]? = some m →
    fsub m.cfg.vMax (fneg m.cfg.vMax) = some v → isFinite v → fsub m.cfg.tMax (fneg m.cfg.tMax) = some t → isFinite t →
    data.b3 = 0 → data.b4 = 0 → data.b5 = 0 →
    (feedbackOf m.cfg data).vel = fneg m.cfg.vMax ∧ (feedbackOf m.cfg data).vel ≠ 0 ∧
    (feedbackOf m.cfg data).tor = fneg m.cfg.tMax ∧ (feedbackOf m.cfg data).tor ≠ 0

/-- R35: the typed view of a cache word has the bits of the word, named by the type of its entry. -/
def Obligations.TypedViewKeepsTheBits : Prop :=
  ∀ (s : State) (slot n : Nat) (m : Motor) (e : RegEntry) (w : Word), s.motors[slot]? = some m →
    s.par.regTable[n]? = some e → m.cache[n]? = some w →
    observeCache s slot (n + 1) = some (match e.ty with | .f32 => .f32 w | .u32 => .u32 w)
end

