-- ==== Sys2Proof/Laws/State.lean ====
section
/-! SUPPORT. One lemma per field per update of the state and of a Motor record, each true by `rfl`; and the reads of
a registry after a write. -/

namespace Sys2Proof.Machine

variable (s : State) (m : Motor)

/-! ## Motor updates -/

@[simp] theorem withMode_cfg (x : Mode) : (m.withMode x).cfg = m.cfg := rfl
@[simp] theorem withMode_mode (x : Mode) : (m.withMode x).mode = x := rfl
@[simp] theorem withMode_tgt (x : Mode) : (m.withMode x).tgt = m.tgt := rfl
@[simp] theorem withMode_fb (x : Mode) : (m.withMode x).fb = m.fb := rfl
@[simp] theorem withMode_cache (x : Mode) : (m.withMode x).cache = m.cache := rfl
@[simp] theorem withMode_cursor (x : Mode) : (m.withMode x).cursor = m.cursor := rfl

@[simp] theorem withTgt_cfg (x : Target) : (m.withTgt x).cfg = m.cfg := rfl
@[simp] theorem withTgt_mode (x : Target) : (m.withTgt x).mode = m.mode := rfl
@[simp] theorem withTgt_tgt (x : Target) : (m.withTgt x).tgt = x := rfl
@[simp] theorem withTgt_fb (x : Target) : (m.withTgt x).fb = m.fb := rfl
@[simp] theorem withTgt_cache (x : Target) : (m.withTgt x).cache = m.cache := rfl
@[simp] theorem withTgt_cursor (x : Target) : (m.withTgt x).cursor = m.cursor := rfl

@[simp] theorem withFb_cfg (x : Feedback) : (m.withFb x).cfg = m.cfg := rfl
@[simp] theorem withFb_mode (x : Feedback) : (m.withFb x).mode = m.mode := rfl
@[simp] theorem withFb_tgt (x : Feedback) : (m.withFb x).tgt = m.tgt := rfl
@[simp] theorem withFb_fb (x : Feedback) : (m.withFb x).fb = x := rfl
@[simp] theorem withFb_cache (x : Feedback) : (m.withFb x).cache = m.cache := rfl
@[simp] theorem withFb_cursor (x : Feedback) : (m.withFb x).cursor = m.cursor := rfl

@[simp] theorem withCursor_cfg (n : Nat) : (m.withCursor n).cfg = m.cfg := rfl
@[simp] theorem withCursor_mode (n : Nat) : (m.withCursor n).mode = m.mode := rfl
@[simp] theorem withCursor_tgt (n : Nat) : (m.withCursor n).tgt = m.tgt := rfl
@[simp] theorem withCursor_fb (n : Nat) : (m.withCursor n).fb = m.fb := rfl
@[simp] theorem withCursor_cache (n : Nat) : (m.withCursor n).cache = m.cache := rfl
@[simp] theorem withCursor_cursor (n : Nat) : (m.withCursor n).cursor = n := rfl

@[simp] theorem withCacheWord_cfg (n : Nat) (v : Word) : (m.withCacheWord n v).cfg = m.cfg := rfl
@[simp] theorem withCacheWord_mode (n : Nat) (v : Word) : (m.withCacheWord n v).mode = m.mode := rfl
@[simp] theorem withCacheWord_tgt (n : Nat) (v : Word) : (m.withCacheWord n v).tgt = m.tgt := rfl
@[simp] theorem withCacheWord_fb (n : Nat) (v : Word) : (m.withCacheWord n v).fb = m.fb := rfl
@[simp] theorem withCacheWord_cache (n : Nat) (v : Word) :
    (m.withCacheWord n v).cache = m.cache.set (n - 1) v := rfl
@[simp] theorem withCacheWord_cursor (n : Nat) (v : Word) : (m.withCacheWord n v).cursor = m.cursor := rfl

/-! ## State updates -/

@[simp] theorem setMotor_par (k : Nat) : (s.setMotor k m).par = s.par := rfl
@[simp] theorem setMotor_motors (k : Nat) : (s.setMotor k m).motors = s.motors.set k m := rfl
@[simp] theorem setMotor_rst (k : Nat) : (s.setMotor k m).rst = s.rst := rfl
@[simp] theorem setMotor_txFail (k : Nat) : (s.setMotor k m).txFail = s.txFail := rfl
@[simp] theorem setMotor_inputs (k : Nat) : (s.setMotor k m).inputs = s.inputs := rfl
@[simp] theorem setMotor_resp (k : Nat) : (s.setMotor k m).resp = s.resp := rfl

section
variable (r : Option Word) (f : Flags) (x : Option Frame)
@[simp] theorem complete_par : (s.complete r f x).par = s.par := rfl
@[simp] theorem complete_motors : (s.complete r f x).motors = s.motors := rfl
@[simp] theorem complete_rst : (s.complete r f x).rst = s.rst := rfl
@[simp] theorem complete_txFail : (s.complete r f x).txFail = s.txFail := rfl
@[simp] theorem complete_inputs : (s.complete r f x).inputs = s.inputs := rfl
@[simp] theorem complete_resp : (s.complete r f x).resp = some ⟨r, statusWord f, x⟩ := rfl
end

@[simp] theorem refuse_motors : s.refuse.motors = s.motors := rfl
@[simp] theorem refuse_par : s.refuse.par = s.par := rfl
@[simp] theorem refuse_resp : s.refuse.resp = some ⟨some 0, 0x01, none⟩ := rfl
@[simp] theorem dropFrame_motors : s.dropFrame.motors = s.motors := rfl
@[simp] theorem dropFrame_par : s.dropFrame.par = s.par := rfl
@[simp] theorem dropFrame_resp : s.dropFrame.resp = some ⟨none, 0x08, none⟩ := rfl
@[simp] theorem done_motors : s.done.motors = s.motors := rfl
@[simp] theorem done_par : s.done.par = s.par := rfl
@[simp] theorem done_resp : s.done.resp = some ⟨some 0, 0x00, none⟩ := rfl
@[simp] theorem emit_motors (x : Frame) (o : Bool) : (s.emit x o).motors = s.motors := rfl
@[simp] theorem emit_par (x : Frame) (o : Bool) : (s.emit x o).par = s.par := rfl
@[simp] theorem emit_resp (x : Frame) (o : Bool) :
    (s.emit x o).resp = some ⟨some 0, statusWord { ovf := o, txErr := s.txFail }, some x⟩ := rfl

@[simp] theorem releaseReset_par (cfgs : List SlotConfig) : (s.releaseReset cfgs).par = s.par := rfl
@[simp] theorem releaseReset_rst (cfgs : List SlotConfig) : (s.releaseReset cfgs).rst = false := rfl
@[simp] theorem releaseReset_txFail (cfgs : List SlotConfig) : (s.releaseReset cfgs).txFail = s.txFail := rfl
@[simp] theorem releaseReset_inputs (cfgs : List SlotConfig) : (s.releaseReset cfgs).inputs = s.inputs := rfl
@[simp] theorem releaseReset_resp (cfgs : List SlotConfig) : (s.releaseReset cfgs).resp = none := rfl

/-! ## Reading the registry after a write -/

theorem setMotor_read_other {j k : Nat} (h : k ≠ j) : (s.setMotor k m).motors[j]? = s.motors[j]? := by
  simp [List.getElem?_set_ne h]

theorem setMotor_read_self {k : Nat} (h : k < s.motors.length) : (s.setMotor k m).motors[k]? = some m := by
  simp [h]

@[simp] theorem setMotor_nmotor (k : Nat) : (s.setMotor k m).nmotor = s.nmotor := by
  simp [State.nmotor]

@[simp] theorem releaseReset_nmotor (cfgs : List SlotConfig) : (s.releaseReset cfgs).nmotor = s.nmotor := by
  simp [State.releaseReset, State.nmotor]

end Sys2Proof.Machine
end

