-- ==== Sys2Proof/Laws/Ops.lean ====
section
/-! SUPPORT. For each shared operation, once, everything it can do: what the provers cite instead of unfolding. -/

namespace Sys2Proof.Machine

/-! ## A command on a slot -/

theorem onSlot_present {slot : Byte} {s : State} {run : Nat → Motor → Answer} {m : Motor}
    (h : s.motors[slot.toNat]? = some m) : onSlot slot s run = run slot.toNat m := by
  simp [onSlot, h]

theorem onSlot_absent {slot : Byte} {s : State} {run : Nat → Motor → Answer}
    (h : s.motors[slot.toNat]? = none) : onSlot slot s run = .next s.refuse := by
  simp [onSlot, h]

/-- A command on a slot either runs on that slot's record or is refused because there is none. -/
theorem onSlot_cases {slot : Byte} {s : State} {run : Nat → Motor → Answer} {t : State}
    (h : onSlot slot s run = .next t) :
    (∃ m, s.motors[slot.toNat]? = some m ∧ run slot.toNat m = .next t) ∨
    (s.motors[slot.toNat]? = none ∧ t = s.refuse) := by
  unfold onSlot at h
  split at h
  · exact .inl ⟨_, ‹_›, h⟩
  · exact .inr ⟨‹_›, by simpa using h.symm⟩

/-! ## The status word -/

theorem statusWord_refused : statusWord { ill := true } = 0x01 := rfl
theorem statusWord_dropped : statusWord { drop := true } = 0x08 := rfl
theorem statusWord_clear : statusWord {} = 0x00 := rfl
theorem statusWord_desync : statusWord { desync := true } = 0x10 := rfl

/-- The status of an emitting command: bit 1 is `ovf`, bit 2 the transport's answer. -/
theorem statusWord_emit (o f : Bool) :
    statusWord { ovf := o, txErr := f } = (if o then 0x02 else 0x00) + (if f then 0x04 else 0x00) := by
  cases o <;> cases f <;> rfl

/-- The status of an advance: `adv`, and the transport's answer. -/
theorem statusWord_adv (f : Bool) : statusWord { adv := true, txErr := f } = 0x20 + (if f then 0x04 else 0x00) := by
  cases f <;> rfl

/-! ## `RX_MAP` -/

/-- `RX_MAP` answers slots of the registry only. -/
theorem rxSlot_lt {s : State} {id : Id16} {k : Nat} (h : rxSlot s id = some k) : k < s.motors.length := by
  unfold rxSlot at h
  split at h
  · exact (List.findIdx?_eq_some_iff_findIdx_eq.1 h).1
  · simpa using (Option.filter_eq_some_iff.1 h).2

/-- `RX_MAP` reads the parameters and the configuration inputs alone. -/
theorem rxSlot_congr {s t : State} (hp : t.par = s.par) (hc : t.motors.map Motor.cfg = s.motors.map Motor.cfg)
    (id : Id16) : rxSlot t id = rxSlot s id := by
  have hl : t.motors.length = s.motors.length := by simpa using congrArg List.length hc
  have hf : ∀ l : List Motor, l.findIdx? (fun m => m.cfg.masterId == id) =
      (l.map Motor.cfg).findIdx? (fun c => c.masterId == id) := by
    intro l; rw [List.findIdx?_map]; rfl
  simp only [rxSlot, hp, hf, hc, hl]

/-! ## The sequencer -/

/-- The entry of a state of the sequencer, when there is one, is the table's, and the state is in `1..NREG`. -/
theorem regEntry_some {p : Params} {n : Nat} {e : RegEntry} (h : regEntry p n = some e) :
    1 ≤ n ∧ n ≤ p.nreg ∧ p.regTable[n - 1]? = some e := by
  unfold regEntry at h
  split at h
  · cases h
  · obtain ⟨hlt, -⟩ := List.getElem?_eq_some_iff.1 h
    exact ⟨by omega, by unfold Params.nreg; omega, h⟩

/-- Every state `Reading(n)` has an expected entry. -/
theorem regEntry_exists {p : Params} {n : Nat} (h1 : 1 ≤ n) (hn : n ≤ p.nreg) : ∃ e, regEntry p n = some e := by
  unfold Params.nreg at hn
  refine ⟨p.regTable[n - 1], ?_⟩
  have h0 : n ≠ 0 := by omega
  have hlt : n - 1 < p.regTable.length := by omega
  simp [regEntry, h0, hlt]

/-- Everything an accepted response can do (R178): it advances and asks for the next entry, or it ends the scan. -/
theorem acceptResponse_cases {k : Nat} {m : Motor} {val : Word} {s t : State}
    (h : acceptResponse k m val s = .next t) :
    (∃ e, m.cursor < s.par.nreg ∧ regEntry s.par (m.cursor + 1) = some e ∧
      t = (s.setMotor k (advanceScan s.par m val)).complete none { adv := true, txErr := s.txFail }
        (some (readRequest s.par m e))) ∨
    (¬ m.cursor < s.par.nreg ∧
      t = (s.setMotor k (advanceScan s.par m val)).complete none { adv := true } none) := by
  unfold acceptResponse at h
  split at h
  · split at h
    · exact .inl ⟨_, ‹_›, ‹_›, by simpa using h.symm⟩
    · cases h
  · exact .inr ⟨‹_›, by simpa using h.symm⟩

/-- Everything the register stage can do (R178 to R180). -/
theorem registerStage_cases {k : Nat} {m : Motor} {rid : Byte} {val : Word} {s t : State}
    (h : registerStage k m rid val s = .next t) :
    (m.cursor = 0 ∧ t = s.complete none {} none) ∨
    (∃ e, regEntry s.par m.cursor = some e ∧ rid ≠ e.rid ∧ t = s.complete none { desync := true } none) ∨
    (∃ e, regEntry s.par m.cursor = some e ∧ rid = e.rid ∧ acceptResponse k m val s = .next t) := by
  unfold registerStage at h
  split at h
  · exact .inl ⟨‹_›, by simpa using h.symm⟩
  · split at h
    · split at h
      · exact .inr (.inr ⟨_, ‹_›, ‹_›, h⟩)
      · exact .inr (.inl ⟨_, ‹_›, ‹_›, by simpa using h.symm⟩)
    · cases h

/-! ## The RX transaction -/

/-- Everything an RX transaction of 8 bytes can do (R193): drop, the feedback stage alone, or both stages. -/
theorem receiveFrame_cases {rxId : Id16} {p : Payload} {s t : State} (h : receiveFrame rxId p s = .next t) :
    (rxSlot s rxId = none ∧ t = s.dropFrame) ∨
    (∃ k m, rxSlot s rxId = some k ∧ s.motors[k]? = some m ∧ isReadResponse p = false ∧
      t = (s.setMotor k (feedbackStage m p)).complete none {} none) ∨
    (∃ k m, rxSlot s rxId = some k ∧ s.motors[k]? = some m ∧ isReadResponse p = true ∧
      registerStage k (feedbackStage m p) (cutRid p) (cutValue p) (s.setMotor k (feedbackStage m p)) = .next t) := by
  unfold receiveFrame at h
  split at h
  · exact .inl ⟨‹_›, by simpa using h.symm⟩
  · rename_i k hk
    split at h
    · rename_i hn
      have := rxSlot_lt hk
      simp at hn
      omega
    · split at h
      · exact .inr (.inr ⟨_, _, hk, ‹_›, ‹_›, h⟩)
      · rename_i hr
        exact .inr (.inl ⟨_, _, hk, ‹_›, by simpa using hr, by simpa using h.symm⟩)

/-! ## The step -/

/-- Everything a step can do: nothing offered; `rst` asserted or released; a transaction not accepted in reset; a word
that names no operation; an operation run. -/
theorem step_cases {s t : State} (h : step s = .next t) :
    (s.inputs = [] ∧ t = { s with resp := none }) ∨
    (∃ rest, s.inputs = .assertReset :: rest ∧ t = { s with inputs := rest, rst := true, resp := none }) ∨
    (∃ cfgs rest, s.inputs = .releaseReset cfgs :: rest ∧ t = { s with inputs := rest }.releaseReset cfgs) ∨
    (∃ w f rest, s.inputs = .transaction w f :: rest ∧ s.rst = true ∧ t = { s with inputs := rest, resp := none }) ∨
    (∃ w f rest e, s.inputs = .transaction w f :: rest ∧ s.rst = false ∧ decode (portMode s w) w = .rejected e ∧
      t = rejectWord e (takeTransaction s rest f)) ∨
    (∃ w f rest i, s.inputs = .transaction w f :: rest ∧ s.rst = false ∧ decode (portMode s w) w = .instr i ∧
      exec i (takeTransaction s rest f) = .next t) := by
  unfold step fetch at h
  split at h
  · rename_i i s' hf
    split at hf <;> try cases hf
    split at hf
    · cases hf
    · split at hf
      · cases hf
        exact .inr (.inr (.inr (.inr (.inr ⟨_, _, _, _, ‹_›, by simpa using ‹¬ s.rst = true›, ‹_›, h⟩))))
      · cases hf
  · rename_i s' hf
    have ht : t = s' := by simpa using h.symm
    subst ht
    split at hf
    · cases hf; exact .inl ⟨‹_›, rfl⟩
    · cases hf; exact .inr (.inl ⟨_, ‹_›, rfl⟩)
    · cases hf; exact .inr (.inr (.inl ⟨_, _, ‹_›, rfl⟩))
    · split at hf
      · cases hf; exact .inr (.inr (.inr (.inl ⟨_, _, _, ‹_›, ‹_›, rfl⟩)))
      · split at hf
        · cases hf
        · cases hf
          exact .inr (.inr (.inr (.inr (.inl ⟨_, _, _, _, ‹_›, by simpa using ‹¬ s.rst = true›, ‹_›, rfl⟩))))

end Sys2Proof.Machine
end

