-- ==== Sys2Proof/Laws/Exec.lean ====
section
/-! SUPPORT. Once, everything an operation can do to the registry, and the bounds of the saturation. -/

namespace Sys2Proof.Machine

/-- The sequencer's part of an RX transaction either leaves cache and cursor, or stores the word of the expected entry
and moves the cursor on, or to `Idle` from the last entry. -/
def ScanEffect (p : Params) (data : Payload) (m m' : Motor) : Prop :=
  (m'.cache = m.cache ∧ m'.cursor = m.cursor) ∨
  ∃ n e, m.cursor = n + 1 ∧ p.regTable[n]? = some e ∧ data.b2 = 0x33 ∧ data.b3 = e.rid ∧
    m'.cache = m.cache.set n (cutValue data) ∧ m'.cursor = if n + 1 < p.nreg then n + 2 else 0

/-- What an RX transaction can do to the registry. -/
theorem receiveFrame_effect {rxId : Id16} {p : Payload} {s t : State} (h : receiveFrame rxId p s = .next t) :
    (∃ r, t = { s with resp := some r }) ∨
    ∃ k m m' r, rxSlot s rxId = some k ∧ s.motors[k]? = some m ∧ t = { s.setMotor k m' with resp := some r } ∧
      m'.cfg = m.cfg ∧ m'.mode = m.mode ∧ m'.tgt = m.tgt ∧ m'.fb = feedbackOf m.cfg p ∧ ScanEffect s.par p m m' := by
  rcases receiveFrame_cases h with ⟨_, rfl⟩ | ⟨k, m, hk, hm, hr, rfl⟩ | ⟨k, m, hk, hm, hr, h⟩
  · exact .inl ⟨_, rfl⟩
  · exact .inr ⟨k, m, feedbackStage m p, _, hk, hm, rfl, rfl, rfl, rfl, rfl, .inl ⟨rfl, rfl⟩⟩
  · rcases registerStage_cases h with ⟨_, rfl⟩ | ⟨e, he, _, rfl⟩ | ⟨e, he, hrid, h⟩
    · exact .inr ⟨k, m, feedbackStage m p, _, hk, hm, rfl, rfl, rfl, rfl, rfl, .inl ⟨rfl, rfl⟩⟩
    · exact .inr ⟨k, m, feedbackStage m p, _, hk, hm, rfl, rfl, rfl, rfl, rfl, .inl ⟨rfl, rfl⟩⟩
    · obtain ⟨h1, h2, h3⟩ := regEntry_some he
      have h1' : 1 ≤ m.cursor := h1
      have hp : p.b2 = 0x33 := by simpa [isReadResponse] using hr
      obtain ⟨n, hn⟩ : ∃ n, m.cursor = n + 1 := ⟨m.cursor - 1, by omega⟩
      have h3' : s.par.regTable[n]? = some e := by
        have : (feedbackStage m p).cursor - 1 = n := by change m.cursor - 1 = n; omega
        rw [this] at h3; exact h3
      have hs : ScanEffect s.par p m (advanceScan s.par (feedbackStage m p) (cutValue p)) :=
        .inr ⟨n, e, hn, h3', hp, hrid, by simp [advanceScan, feedbackStage, hn], by simp [advanceScan, feedbackStage, hn]⟩
      rcases acceptResponse_cases h with ⟨e', hlt, he', rfl⟩ | ⟨hnlt, rfl⟩
      · exact .inr ⟨k, m, advanceScan s.par (feedbackStage m p) (cutValue p),
          ⟨none, statusWord { adv := true, txErr := s.txFail }, some (readRequest s.par m e')⟩, hk, hm,
          by simp [State.setMotor, State.complete, readRequest, feedbackStage, mgmtFrame],
          rfl, rfl, rfl, rfl, hs⟩
      · exact .inr ⟨k, m, advanceScan s.par (feedbackStage m p) (cutValue p), ⟨none, statusWord { adv := true }, none⟩, hk, hm,
          by simp [State.setMotor, State.complete], rfl, rfl, rfl, rfl, hs⟩

/-- What an operation on a slot can do to that slot's record. -/
inductive SlotEffect (p : Params) (slot : Byte) (m : Motor) : Instr → Motor → Prop where
  | mode (code : Byte) (mode : Mode) : SlotEffect p slot m (.setmode slot code) (m.withMode mode)
  | tgt (a b c d e f : F32) : SlotEffect p slot m (.settgt slot a b c d e f) (m.withTgt ⟨a, b, c, d, e, f⟩)
  | disabled : SlotEffect p slot m (.disable slot) (m.withTgt Target.zero)
  | scan (h : 1 ≤ p.nreg) : SlotEffect p slot m (.scanstart slot) (m.withCursor 1)

/-- A control frame writes nothing. -/
theorem dispatchControl_effect {slot : Byte} {s t : State} (h : dispatchControl slot s = .next t) :
    ∃ r, t = { s with resp := some r } := by
  unfold dispatchControl at h
  rcases onSlot_cases h with ⟨m, -, h⟩ | ⟨-, rfl⟩
  · split at h <;> (cases h; exact ⟨_, rfl⟩)
  · exact ⟨_, rfl⟩

/-- Everything an operation can do to the registry: nothing; one record, the one its slot operand names; or the record
of the slot that owns the received id. -/
theorem exec_effect {i : Instr} {s t : State} (h : exec i s = .next t) :
    (∃ r, t = { s with resp := some r }) ∨
    (∃ slot m m' r, slotOperand i = some slot ∧ s.motors[slot.toNat]? = some m ∧
      t = { s.setMotor slot.toNat m' with resp := some r } ∧ SlotEffect s.par slot m i m') ∨
    (∃ rxId p k m m' r, (i = .rxFb rxId p ∨ i = .rxRsp rxId p) ∧ rxSlot s rxId = some k ∧ s.motors[k]? = some m ∧
      t = { s.setMotor k m' with resp := some r } ∧ m'.cfg = m.cfg ∧ m'.mode = m.mode ∧ m'.tgt = m.tgt ∧
      m'.fb = feedbackOf m.cfg p ∧ ScanEffect s.par p m m') := by
  cases i <;> simp only [exec] at h
  case qenc =>
    unfold execQenc at h; split at h <;> (cases h; exact .inl ⟨_, rfl⟩)
  case qdec =>
    unfold execQdec at h; split at h
    · cases h; exact .inl ⟨_, rfl⟩
    · split at h <;> (cases h; exact .inl ⟨_, rfl⟩)
  case setmode slot code =>
    rcases onSlot_cases h with ⟨m, hm, h⟩ | ⟨_, rfl⟩
    · split at h
      · cases h; exact .inr (.inl ⟨slot, m, _, _, rfl, hm, rfl, .mode _ _⟩)
      · cases h; exact .inl ⟨_, rfl⟩
    · exact .inl ⟨_, rfl⟩
  case settgt slot a b c d e f =>
    rcases onSlot_cases h with ⟨m, hm, h⟩ | ⟨_, rfl⟩
    · cases h; exact .inr (.inl ⟨slot, m, _, _, rfl, hm, rfl, .tgt _ _ _ _ _ _⟩)
    · exact .inl ⟨_, rfl⟩
  case disable slot =>
    rcases onSlot_cases h with ⟨m, hm, h⟩ | ⟨_, rfl⟩
    · cases h; exact .inr (.inl ⟨slot, m, _, _, rfl, hm, rfl, .disabled⟩)
    · exact .inl ⟨_, rfl⟩
  case scanstart slot =>
    rcases onSlot_cases h with ⟨m, hm, h⟩ | ⟨_, rfl⟩
    · split at h
      · rename_i e he
        cases h; exact .inr (.inl ⟨slot, m, _, _, rfl, hm, rfl, .scan (regEntry_some he).2.1⟩)
      · cases h
    · exact .inl ⟨_, rfl⟩
  case rxFb rxId p =>
    rcases receiveFrame_effect h with h | ⟨k, m, m', r, h⟩
    · exact .inl h
    · exact .inr (.inr ⟨rxId, p, k, m, m', r, .inl rfl, h⟩)
  case rxRsp rxId p =>
    rcases receiveFrame_effect h with h | ⟨k, m, m', r, h⟩
    · exact .inl h
    · exact .inr (.inr ⟨rxId, p, k, m, m', r, .inr rfl, h⟩)
  case ctrlMit | ctrlPos | ctrlSpd | ctrlPsc => all_goals exact .inl (dispatchControl_effect h)
  all_goals
    rcases onSlot_cases h with ⟨m, hm, h⟩ | ⟨_, rfl⟩
    · cases h; exact .inl ⟨_, rfl⟩
    · exact .inl ⟨_, rfl⟩

/-- What holds of both arms of a conditional holds of it: takes the decoder's chain of codes apart. -/
theorem ite_elim {α : Type} {c : Prop} [Decidable c] {x y : α} (P : α → Prop) (hx : P x) (hy : P y) :
    P (if c then x else y) := by
  split <;> assumption

/-- A decoded command names the slot of its word, or no slot. -/
theorem decodeCommand_slot {mode : Mode} {c : Command} {i : Instr} (h : decodeCommand mode c = .instr i) :
    receivedId i = none ∧ (slotOperand i = none ∨ slotOperand i = some c.slot) := by
  let P : Decoded → Prop := fun d => ∀ i, d = .instr i →
    receivedId i = none ∧ (slotOperand i = none ∨ slotOperand i = some c.slot)
  have ctrl : P (.instr (ctrlInstr mode c.slot)) := by
    rintro i ⟨⟩; cases mode <;> exact ⟨rfl, .inr rfl⟩
  have key : P (decodeCommand mode c) := by
    unfold decodeCommand
    repeat' apply ite_elim P
    all_goals
      first
        | exact ctrl
        | (rintro i ⟨⟩; exact ⟨rfl, .inl rfl⟩)
        | (rintro i ⟨⟩; exact ⟨rfl, .inr rfl⟩)
        | (rintro i ⟨⟩)
  exact key i h

/-- A decoded frame carries the id of its word. -/
theorem decodeFrame_id {f : RxFrame} {i : Instr} (h : decodeFrame f = .instr i) :
    slotOperand i = none ∧ receivedId i = some f.id ∧ f.len = 8 := by
  unfold decodeFrame at h
  split_ifs at h with hl hr <;> cases h <;> exact ⟨rfl, rfl, hl⟩

/-- A saturated code is at most the largest code. -/
theorem satTrunc_le (t : Option F32) (n : Nat) : (satTrunc t n).1 ≤ n := by
  unfold satTrunc
  split
  · exact Nat.zero_le n
  · split
    · exact Nat.zero_le n
    · unfold satTruncValue
      split
      · split <;> simp
      · split
        · simp
        · split
          · simp
          · simp; omega

/-! ## The code of `QENC` -/

/-- Above a range the code is the largest one (R107). -/
theorem quantEncode_above {value lo hi : F32} {bits : Byte} (h : aboveRange value lo hi = true) :
    (quantEncode value lo hi bits).1 = maxCode bits := by
  simp [quantEncode, rangeCode, h]

/-- A value below a range is not above it. -/
theorem aboveRange_of_below {value lo hi : F32} (h : belowRange value lo hi = true) : aboveRange value lo hi = false := by
  simp only [belowRange, fle, flt, Bool.and_eq_true, decide_eq_true_eq] at h
  have : ¬ fscaled hi < fscaled value := by omega
  simp [aboveRange, flt, this]

/-- Below a range the code is 0 (R107). -/
theorem quantEncode_below {value lo hi : F32} {bits : Byte} (h : belowRange value lo hi = true) :
    (quantEncode value lo hi bits).1 = 0 := by
  simp [quantEncode, rangeCode, h, aboveRange_of_below h]

/-- Anywhere else the code is the saturated quotient (R105). -/
theorem quantEncode_inside {value lo hi : F32} {bits : Byte} (ha : aboveRange value lo hi = false)
    (hb : belowRange value lo hi = false) :
    (quantEncode value lo hi bits).1 = (satTrunc (quantQuotient value lo hi (maxCode bits)) (maxCode bits)).1 := by
  simp [quantEncode, rangeCode, ha, hb]

/-- Nothing is above or below a range it lies in. -/
theorem inside_of_fle {value lo hi : F32} (hl : fle lo value = true) (hh : fle value hi = true) :
    aboveRange value lo hi = false ∧ belowRange value lo hi = false := by
  simp only [fle, Bool.and_eq_true, decide_eq_true_eq] at hl hh
  simp [aboveRange, belowRange, flt, hl.2, hh.2]

end Sys2Proof.Machine
end

