-- ==== Sys2Proof/Laws/PerInstr.lean ====
section
/-! SUPPORT. The families of statements made per operation (LAWS.json): `PortRoundTrip`, that the port word of an
operation is read back as that operation. -/

namespace Sys2Proof

@[simp] theorem lowByte_wordOfByte (b : Byte) : lowByte (wordOfByte b) = b := by
  apply BitVec.eq_of_toNat_eq
  simp only [lowByte, wordOfByte, BitVec.extractLsb'_toNat, BitVec.toNat_setWidth, Nat.shiftRight_zero]
  have := b.isLt
  omega

namespace Laws.PortRoundTrip

/-- An operation of its class, read in a mode it fits, is read back from its port word. -/
def Statement (i : Instr) : Prop :=
  ∀ mode, i.classMatches = true → i.fitsMode mode = true → decode mode (encode i) = .instr i

theorem qenc (value lo hi : F32) (bits : Byte) : Statement (.qenc value lo hi bits) := by
  intro mode _ _; simp [decode, encode, decodeCommand]
theorem qdec (raw : Word) (lo hi : F32) (bits : Byte) : Statement (.qdec raw lo hi bits) := by
  intro mode _ _; simp [decode, encode, decodeCommand]
theorem setmode (slot code : Byte) : Statement (.setmode slot code) := by
  intro mode _ _; simp [decode, encode, decodeCommand, bareCommand]
theorem settgt (slot : Byte) (pos vel kp kd torque current : F32) :
    Statement (.settgt slot pos vel kp kd torque current) := by
  intro mode _ _; simp [decode, encode, decodeCommand]
theorem ctrlMit (slot : Byte) : Statement (.ctrlMit slot) := by
  intro mode _ h; cases mode <;> simp_all [Instr.fitsMode, decode, encode, decodeCommand, bareCommand, ctrlInstr]
theorem ctrlPos (slot : Byte) : Statement (.ctrlPos slot) := by
  intro mode _ h; cases mode <;> simp_all [Instr.fitsMode, decode, encode, decodeCommand, bareCommand, ctrlInstr]
theorem ctrlSpd (slot : Byte) : Statement (.ctrlSpd slot) := by
  intro mode _ h; cases mode <;> simp_all [Instr.fitsMode, decode, encode, decodeCommand, bareCommand, ctrlInstr]
theorem ctrlPsc (slot : Byte) : Statement (.ctrlPsc slot) := by
  intro mode _ h; cases mode <;> simp_all [Instr.fitsMode, decode, encode, decodeCommand, bareCommand, ctrlInstr]
theorem clrerr (slot : Byte) : Statement (.clrerr slot) := by
  intro mode _ _; simp [decode, encode, decodeCommand, bareCommand]
theorem enable (slot : Byte) : Statement (.enable slot) := by
  intro mode _ _; simp [decode, encode, decodeCommand, bareCommand]
theorem disable (slot : Byte) : Statement (.disable slot) := by
  intro mode _ _; simp [decode, encode, decodeCommand, bareCommand]
theorem savezero (slot : Byte) : Statement (.savezero slot) := by
  intro mode _ _; simp [decode, encode, decodeCommand, bareCommand]
theorem regrd (slot rid : Byte) : Statement (.regrd slot rid) := by
  intro mode _ _; simp [decode, encode, decodeCommand, bareCommand]
theorem regwr (slot rid : Byte) (data : Word) : Statement (.regwr slot rid data) := by
  intro mode _ _; simp [decode, encode, decodeCommand, bareCommand]
theorem regsave (slot : Byte) : Statement (.regsave slot) := by
  intro mode _ _; simp [decode, encode, decodeCommand, bareCommand]
theorem scanstart (slot : Byte) : Statement (.scanstart slot) := by
  intro mode _ _; simp [decode, encode, decodeCommand, bareCommand]
theorem rxFb (rxId : Id16) (data : Payload) : Statement (.rxFb rxId data) := by
  intro mode h _
  simp_all [Instr.classMatches, Payload.hasReadTag, isReadResponse, decode, encode, decodeFrame]
theorem rxRsp (rxId : Id16) (data : Payload) : Statement (.rxRsp rxId data) := by
  intro mode h _
  simp_all [Instr.classMatches, Payload.hasReadTag, isReadResponse, decode, encode, decodeFrame]

end Laws.PortRoundTrip
end Sys2Proof
end

