-- ==== Sys2Proof/Tests/Slice0.lean ====
section
/-! SUPPORT. The model's own tests: words written out from the encoding tables of spec/, the ill-formed terms, the
vectors of spec/95_test_vectors.md (for the parameters `VP`), and one witness per statement that has hypotheses. -/

namespace Sys2Proof.Tests
open Sys2Proof Sys2Proof.Machine

/-! ## Helpers -/

/-- A command word with its `op`, `slot` and first four operand words. -/
def command (op : BitVec 5) (slot : Byte) (a0 a1 a2 a3 : Word := 0) : PortWord := .cmd ⟨op, slot, a0, a1, a2, a3, 0, 0⟩

/-- A received frame of 8 bytes, as its integer view. -/
def received (id : Id16) (bits : BitVec 64) : PortWord := .rx ⟨id, 8, Payload.ofBits bits⟩

/-- `s` with one transaction offered. -/
def offer (w : PortWord) (txFail : Bool := false) (s : State := State.reset) : State :=
  { s with inputs := [.transaction w txFail] }

/-- `State.reset` with the record of slot `k` changed. -/
def withSlot (k : Nat) (change : Motor → Motor) (s : State := State.reset) : State :=
  { s with motors := s.motors.modify k change }

/-- The state one step leaves, if it leaves one. -/
def after (s : State) : Option State :=
  match step s with
  | .next t => some t
  | .fault _ => none
  | .refused _ => none

/-- What the transaction of one step returns. -/
def answer (s : State) : Option Response := (after s).bind State.resp

/-- The record of slot `k` after one step. -/
def record (s : State) (k : Nat) : Option Motor := (after s).bind fun t => t.motors[k]?

/-- A command's answer with no frame. -/
def plain (result : Word) (status : BitVec 8) : Option Response := some ⟨some result, status, none⟩

/-- A command's answer with a frame, its data as the integer view. -/
def framed (status : BitVec 8) (id : Id16) (len : BitVec 4) (bits : BitVec 64) : Option Response :=
  some ⟨some 0, status, some ⟨id, len, Payload.ofBits bits⟩⟩

/-! ## Decoding: words written out bit by bit from 30_encoding.md R72, R88 -/

/-- `op` 00001, `a3[7:0]` 16: QENC 1.0, 0.0, 2.0, 16 with the bits of `a3` above 7 set, which are not read. -/
theorem test_decode_qenc : decode .speed (.cmd ⟨0b00001, 9, 0x3F800000, 0, 0x40000000, 0xABCDEF10, 7, 7⟩) =
    .instr (.qenc 0x3F800000 0 0x40000000 16) := by decide
theorem test_decode_qdec : decode .mit (.cmd ⟨0b00010, 9, 0xC04D, 0xC1480000, 0x41480000, 0x10, 7, 7⟩) =
    .instr (.qdec 0xC04D 0xC1480000 0x41480000 16) := by decide
theorem test_decode_setmode : decode .mit (.cmd ⟨0b00100, 1, 0xFFFFFF03, 0, 0, 0, 0, 0⟩) = .instr (.setmode 1 3) := by
  decide
theorem test_decode_settgt : decode .mit (.cmd ⟨0b00101, 1, 1, 2, 3, 4, 5, 6⟩) = .instr (.settgt 1 1 2 3 4 5 6) := by
  decide
theorem test_decode_ctrl_by_mode :
    decode .mit (.cmd ⟨0b01000, 1, 0, 0, 0, 0, 0, 0⟩) = .instr (.ctrlMit 1) ∧
    decode .position (.cmd ⟨0b01000, 1, 0, 0, 0, 0, 0, 0⟩) = .instr (.ctrlPos 1) ∧
    decode .speed (.cmd ⟨0b01000, 1, 0, 0, 0, 0, 0, 0⟩) = .instr (.ctrlSpd 1) ∧
    decode .positionSpeedCurrent (.cmd ⟨0b01000, 1, 0, 0, 0, 0, 0, 0⟩) = .instr (.ctrlPsc 1) := by decide
theorem test_decode_mode_commands :
    decode .mit (.cmd ⟨0b01011, 1, 0, 0, 0, 0, 0, 0⟩) = .instr (.clrerr 1) ∧
    decode .mit (.cmd ⟨0b01100, 1, 0, 0, 0, 0, 0, 0⟩) = .instr (.enable 1) ∧
    decode .mit (.cmd ⟨0b01101, 1, 0, 0, 0, 0, 0, 0⟩) = .instr (.disable 1) ∧
    decode .mit (.cmd ⟨0b01110, 1, 0, 0, 0, 0, 0, 0⟩) = .instr (.savezero 1) := by decide
theorem test_decode_register_protocol :
    decode .mit (.cmd ⟨0b10000, 1, 0x0C, 0, 0, 0, 0, 0⟩) = .instr (.regrd 1 0x0C) ∧
    decode .mit (.cmd ⟨0b10001, 1, 0x17, 0xDEADBEEF, 0, 0, 0, 0⟩) = .instr (.regwr 1 0x17 0xDEADBEEF) ∧
    decode .mit (.cmd ⟨0b10010, 1, 0, 0, 0, 0, 0, 0⟩) = .instr (.regsave 1) ∧
    decode .mit (.cmd ⟨0b10011, 1, 0, 0, 0, 0, 0, 0⟩) = .instr (.scanstart 1) := by decide
/-- The payloads of 95 V-F rows 5 and 6. -/
theorem test_decode_rx :
    decode .mit (.rx ⟨0x012, 8, ⟨0x11, 0x8A, 0x3C, 0x8C, 0xC5, 0xFF, 0x1E, 0x1C⟩⟩) =
      .instr (.rxFb 0x012 ⟨0x11, 0x8A, 0x3C, 0x8C, 0xC5, 0xFF, 0x1E, 0x1C⟩) ∧
    decode .mit (.rx ⟨0x000, 8, ⟨0x01, 0x00, 0x33, 0x15, 0x00, 0x00, 0x48, 0x41⟩⟩) =
      .instr (.rxRsp 0x000 ⟨0x01, 0x00, 0x33, 0x15, 0x00, 0x00, 0x48, 0x41⟩) := by decide
/-- R89 (a): every unassigned code is rejected; R194: so is every length but 8. -/
theorem test_decode_rejects :
    (∀ op ∈ unassignedOps, decode .mit (command op 0) = .rejected (.unassignedOp op)) ∧
    (∀ len : BitVec 4, len ≠ 8 → decode .mit (.rx ⟨0, len, Payload.ofBits 0⟩) = .rejected (.wrongLength len)) := by
  decide
/-- The table words of the rows that share `CTRL`'s code, and of the two RX rows (30_encoding.md R93). -/
theorem test_table_words : decodeTableWord 8 0b01000 = some (.ctrlMit 0) ∧
    decodeTableWord 8 0b00000 = none ∧ decodeTableWord 8 0b11111 = none ∧
    decodeTableWord 64 0 = some (.rxFb 0 ⟨0, 0, 0, 0, 0, 0, 0, 0⟩) := by decide
/-- A table word placed at the ports is run by the next step: `ENABLE m0` after reset. -/
theorem test_withFetchWord : answer (State.reset.withFetchWord 8 0b01100) =
    framed 0x00 0x001 8 0xFFFFFFFFFFFFFFFC := by decide

/-! ## Well-formedness: an ill-formed term for each check -/

theorem test_wellFormed_refuses :
    (Instr.qenc 0 0 0 0).wellFormed = false ∧ (Instr.qenc 0 0 0 17).wellFormed = false ∧
    (Instr.qdec 0 0 0 17).wellFormed = false ∧ (Instr.qdec 2 0 0 1).wellFormed = false ∧
    (Instr.qdec 65536 0 0 16).wellFormed = false ∧ (Instr.setmode 0 4).wellFormed = false ∧
    (Instr.rxFb 0 ⟨0, 0, 0x33, 0, 0, 0, 0, 0⟩).wellFormed = false ∧
    (Instr.rxRsp 0 ⟨0, 0, 0x34, 0, 0, 0, 0, 0⟩).wellFormed = false := by decide
theorem test_wellFormed_accepts :
    (Instr.qenc 0 0 0 1).wellFormed ∧ (Instr.qenc 0 0 0 16).wellFormed ∧ (Instr.qdec 65535 0 0 16).wellFormed ∧
    (Instr.setmode 0 3).wellFormed ∧ (Instr.rxRsp 0 ⟨0, 0, 0x33, 0, 0, 0, 0, 0⟩).wellFormed := by decide

/-! ## Vectors of spec/95_test_vectors.md -/

/-- V-Q rows 1 and 11: `t1` rounds to the span, and the range test alone flags. -/
theorem test_qenc_vectors :
    answer (offer (command 0x01 0 0x40C8F5C3 0xC1480000 0x41480000 16)) = plain 0xC04D 0x00 ∧
    answer (offer (command 0x01 0 0x41480001 0xC1480000 0x41480000 16)) = plain 0xFFFF 0x02 := by decide
/-- V-Q rows 14, 31, 33, 34: an infinite value, a zero span, reversed limits, an infinite limit. -/
theorem test_qenc_special :
    quantEncode 0x7F800000 0xC1480000 0x41480000 16 = (65535, true) ∧ quantEncode 0 0 0 16 = (0, true) ∧
    quantEncode 0 0x41480000 0xC1480000 16 = (32767, true) ∧ quantEncode 0x40A00000 0 0x7F800000 12 = (0, false) := by
  decide
/-- R107 where R105's pseudocode alone would give 2, and 0 for an overflowing and an infinite span (log 15): above a range, `N`. -/
theorem test_qenc_above : quantEncode 0x41457715 0xC14AFDB8 0x41457714 2 = (3, true) ∧
    quantEncode 0x7F7FFFFF 0xFF7FFFFF 0x7F7FFFFE 8 = (255, true) ∧
    quantEncode 0x40000000 0xFF800000 0x3F800000 8 = (255, true) := by decide
/-- R107 with limits `+0.0..-0.0`, whose span is `-0.0` (log 15): below 0, above `N`, and the value itself 0, all flagged. -/
theorem test_qenc_mixed_zeros : quantEncode 0xBF800000 0x00000000 0x80000000 16 = (0, true) ∧
    quantEncode 0x3F800000 0x00000000 0x80000000 16 = (65535, true) ∧
    quantEncode 0x00000000 0x00000000 0x80000000 16 = (0, true) := by decide
/-- V-D rows 1 and 14. -/
theorem test_qdec_vectors :
    answer (offer (command 0x02 0 49229 0xC1480000 0x41480000 16)) = plain 0x40C8F2F8 0x00 ∧
    answer (offer (command 0x02 0 336 0xC1F00000 0x41F00000 12)) = plain 0xC1C89D8A 0x00 := by decide
/-- V-D row 27, and V-I row 7. -/
theorem test_qdec_special : quantDecode 1 0 0x7F800000 12 = 0x7F800000 ∧
    answer (offer (command 0x02 0 65536 0xC1480000 0x41480000 16)) = plain 0 0x01 := by decide
/-- P2 line 4. -/
theorem test_setmode : answer (offer (command 0x04 1 3)) = plain 0 0x00 ∧
    (record (offer (command 0x04 1 3)) 1).map Motor.mode = some .positionSpeedCurrent := by decide
/-- P1 line 2: each target in its own place. -/
theorem test_settgt :
    (record (offer (.cmd ⟨0x05, 0, 0x3F800000, 0x40400000, 0x42480000, 0x3F800000, 0xC0200000, 0⟩)) 0).map Motor.tgt =
      some ⟨0x3F800000, 0x40400000, 0x42480000, 0x3F800000, 0xC0200000, 0⟩ := by decide

/-- The targets of P1 line 2. -/
def targetsP1 : Target := ⟨0x3F800000, 0x40400000, 0x42480000, 0x3F800000, 0xC0200000, 0⟩
/-- The targets of P2 line 1. -/
def targetsP2 : Target := ⟨0x3FC00000, 0x40200000, 0, 0, 0, 0x3E99999A⟩

/-- P1 line 4, and S8 as V-M row 1 with the transport failing (P4 line 13). -/
theorem test_ctrl_mit :
    answer (offer (command 0x08 0) false (withSlot 0 (·.withTgt targetsP1))) = framed 0x00 0x001 8 0x8A3C8CC1993335FF ∧
    answer (offer (command 0x08 0) true) = framed 0x04 0x001 8 0x7FFF7FF0000007FF := by decide
/-- P2 line 7. -/
theorem test_ctrl_pos :
    answer (offer (command 0x08 1) false (withSlot 1 fun m => (m.withTgt targetsP2).withMode .position)) =
      framed 0x00 0x102 8 0x0000C03F00002040 := by decide
/-- P2 line 3. -/
theorem test_ctrl_spd :
    answer (offer (command 0x08 1) false (withSlot 1 fun m => (m.withTgt targetsP2).withMode .speed)) =
      framed 0x00 0x202 4 0x0000204000000000 := by decide
/-- P2 lines 5 and 11. -/
theorem test_ctrl_psc :
    answer (offer (command 0x08 1) false (withSlot 1 fun m => (m.withTgt targetsP2).withMode .positionSpeedCurrent)) =
      framed 0x00 0x302 8 0x0000C03FFA00B80B ∧
    answer (offer (command 0x08 1) false
      (withSlot 1 fun m => (m.withTgt ⟨0xC0400000, 0x442F0000, 0, 0, 0, 0xBF000000⟩).withMode .positionSpeedCurrent)) =
      framed 0x02 0x302 8 0x000040C0FFFF0000 := by decide
/-- V-N rows 8, 3 and 7. -/
theorem test_mode_commands :
    answer (offer (command 0x0B 0) false (withSlot 0 (·.withMode .positionSpeedCurrent))) =
      framed 0x00 0x301 8 0xFFFFFFFFFFFFFFFB ∧
    answer (offer (command 0x0C 1) false (withSlot 1 (·.withMode .position))) =
      framed 0x00 0x102 8 0xFFFFFFFFFFFFFFFC ∧
    answer (offer (command 0x0E 1)) = framed 0x00 0x002 8 0xFFFFFFFFFFFFFFFE := by decide
/-- V-N row 5 (S6): the transport fails, the targets are zeroed all the same. -/
theorem test_disable :
    answer (offer (command 0x0D 0) true (withSlot 0 (·.withTgt targetsP1))) = framed 0x04 0x001 8 0xFFFFFFFFFFFFFFFD ∧
    (record (offer (command 0x0D 0) true (withSlot 0 (·.withTgt targetsP1))) 0).map Motor.tgt =
      some ⟨0, 0, 0, 0, 0, 0⟩ := by decide
/-- V-R rows 2, 6 and 8. -/
theorem test_register_protocol :
    answer (offer (command 0x10 1 0x0C)) = framed 0x00 0x7FF 4 0x0200330C00000000 ∧
    answer (offer (command 0x11 1 0x17 0xDEADBEEF)) = framed 0x00 0x7FF 8 0x02005517EFBEADDE ∧
    answer (offer (command 0x12 1)) = framed 0x00 0x7FF 4 0x0200AA0100000000 := by decide
/-- V-X row 2: from cursor 2 the scan starts again, the cache not cleared. -/
theorem test_scanstart :
    answer (offer (command 0x13 0) false (withSlot 0 fun m => (m.withCacheWord 1 0x41480000).withCursor 2)) =
      framed 0x00 0x7FF 4 0x0100331500000000 ∧
    (record (offer (command 0x13 0) false (withSlot 0 fun m => (m.withCacheWord 1 0x41480000).withCursor 2)) 0).map
      (fun m => (m.cursor, m.cache)) = some (1, [0x41480000, 0, 0]) := by decide
/-- V-F row 5. -/
theorem test_rx_feedback :
    answer (offer (received 0x000 0x118A3C8CC5FF1E1C)) = some ⟨none, 0x00, none⟩ ∧
    (record (offer (received 0x000 0x118A3C8CC5FF1E1C)) 0).map Motor.fb =
      some ⟨35388, 2252, 1535, 0x3F7FE980, 0x403FC400, 0xC0203204, 0x41F00000, 0x41E00000, 1, 1⟩ := by decide
/-- V-X row 10: the false advance, its word and its feedback. -/
theorem test_rx_response :
    answer (offer (received 0x000 0x1180331505FF1E1C) false (withSlot 0 (·.withCursor 1))) =
      some ⟨none, 0x20, some ⟨0x7FF, 4, ⟨0x01, 0x00, 0x33, 0x0A, 0, 0, 0, 0⟩⟩⟩ ∧
    (record (offer (received 0x000 0x1180331505FF1E1C) false (withSlot 0 (·.withCursor 1))) 0).map
      (fun m => (m.cursor, m.cache, m.fb.pos)) = some (2, [0x1C1EFF05, 0, 0], 0x3CA0F000) := by decide
/-- V-X row 5: a desync. -/
theorem test_rx_desync :
    answer (offer (received 0x000 0x0100331700002041) false (withSlot 0 (·.withCursor 2))) =
      some ⟨none, 0x10, none⟩ ∧
    (record (offer (received 0x000 0x0100331700002041) false (withSlot 0 (·.withCursor 2))) 0).map
      (fun m => (m.cursor, m.cache)) = some (2, [0, 0, 0]) := by decide
/-- V-X rows 11 and 13: dropped. V-I rows 1, 2 and 4: refused. -/
theorem test_drops_and_refusals :
    answer (offer (received 0x7FF 0x0100331500004841)) = some ⟨none, 0x08, none⟩ ∧
    answer (offer (.rx ⟨0x000, 4, Payload.ofBits 0x0100331500000000⟩)) = some ⟨none, 0x08, none⟩ ∧
    answer (offer (command 0x03 0)) = plain 0 0x01 ∧ answer (offer (command 0x04 2)) = plain 0 0x01 ∧
    answer (offer (command 0x04 0 4)) = plain 0 0x01 := by decide

/-! ## Witnesses: for every statement with hypotheses, values that meet all of them together -/

/-- The invariant is a matter of the parameters and the records. -/
theorem reset_inv : State.Inv State.reset := by
  refine ⟨by decide, by decide, by decide, fun m hm => ?_⟩
  have : m = Motor.reset 3 ⟨0x0001, 0x0000, 0x41480000, 0x41F00000, 0x41200000⟩ ∨
      m = Motor.reset 3 ⟨0x0002, 0x0012, 0x41480000, 0x41F00000, 0x41200000⟩ := by
    simpa [State.reset, State.resetWith, SlotConfig.vectors, Params.vectors, Params.nreg] using hm
  rcases this with rfl | rfl <;> exact ⟨by decide, by decide, by decide, by decide, .inl rfl⟩

theorem offer_inv (w : PortWord) (txFail : Bool) : (offer w txFail).Inv :=
  ⟨reset_inv.nmotor_pos, reset_inv.nmotor_le, reset_inv.nreg_pos, reset_inv.motors⟩

/-- `State.reset` with slot 0 in `Reading(1)`. -/
def scanning : State := withSlot 0 (·.withCursor 1)

theorem scanning_inv : State.Inv scanning := by
  refine ⟨by decide, by decide, by decide, fun m hm => ?_⟩
  have : m = (Motor.reset 3 ⟨0x0001, 0x0000, 0x41480000, 0x41F00000, 0x41200000⟩).withCursor 1 ∨
      m = Motor.reset 3 ⟨0x0002, 0x0012, 0x41480000, 0x41F00000, 0x41200000⟩ := by
    simpa [scanning, withSlot, State.reset, State.resetWith, SlotConfig.vectors, Params.vectors, Params.nreg] using hm
  rcases this with rfl | rfl <;> exact ⟨by decide, by decide, by decide, by decide, .inl rfl⟩

/-- A read-response for slot 0, from the register `rid`, with value 12.5. -/
def response (rid : Byte) : Payload := ⟨0x01, 0x00, 0x33, rid, 0x00, 0x00, 0x48, 0x41⟩

theorem witness_StepRunsTheDecodedOperation :
    (offer (command 0x08 1) true).inputs = .transaction (command 0x08 1) true :: [] ∧
    (offer (command 0x08 1) true).rst = false ∧
    decode (portMode (offer (command 0x08 1) true) (command 0x08 1)) (command 0x08 1) = .instr (.ctrlMit 1) ∧
    (offer (command 0x08 1) true).motors[(1 : Byte).toNat]? =
      some (Motor.reset 3 ⟨0x0002, 0x0012, 0x41480000, 0x41F00000, 0x41200000⟩) := by decide

/-- The `CTRL` clause with a slot in another mode: the step sends that mode's frame (P2 line 3). -/
theorem witness_StepRunsTheDecodedOperation_mode :
    ((withSlot 1 (·.withMode .speed)).motors[(1 : Byte).toNat]?).map Motor.mode = some .speed ∧
    portMode (withSlot 1 (·.withMode .speed)) (command 0x08 1) = .speed := by decide

theorem witness_NothingOfferedChangesNothing : State.reset.inputs = [] := rfl

/-- One command for each clause of R89, at its boundary: `op` 0 and `0x1F`; slot `NMOTOR`; code 4; widths 0 and 17; raw
values `2^bits`. -/
theorem witness_IllegalCommandsAreRefused :
    IllegalCommand State.reset ⟨0x00, 0, 0, 0, 0, 0, 0, 0⟩ ∧ IllegalCommand State.reset ⟨0x1F, 0, 0, 0, 0, 0, 0, 0⟩ ∧
    IllegalCommand State.reset ⟨0x08, 2, 0, 0, 0, 0, 0, 0⟩ ∧ IllegalCommand State.reset ⟨0x13, 255, 0, 0, 0, 0, 0, 0⟩ ∧
    IllegalCommand State.reset ⟨0x04, 1, 4, 0, 0, 0, 0, 0⟩ ∧ IllegalCommand State.reset ⟨0x01, 0, 0, 0, 0, 0, 0, 0⟩ ∧
    IllegalCommand State.reset ⟨0x02, 0, 0, 0, 0, 17, 0, 0⟩ ∧ IllegalCommand State.reset ⟨0x02, 0, 2, 0, 0, 1, 0, 0⟩ ∧
    IllegalCommand State.reset ⟨0x02, 0, 65536, 0, 0, 16, 0, 0⟩ ∧
    (offer (command 0x04 1 4)).inputs = .transaction (.cmd ⟨0x04, 1, 4, 0, 0, 0, 0, 0⟩) false :: [] ∧
    (offer (command 0x04 1 4)).rst = false := by
  and_intros <;> first | decide | (unfold IllegalCommand; decide)

/-- The other side of each boundary: slot `NMOTOR - 1`, code 3, widths 1 and 16, raw values `2^bits - 1`. -/
theorem witness_LegalCommandsAreNotRefused :
    ¬ IllegalCommand State.reset ⟨0x08, 1, 0, 0, 0, 0, 0, 0⟩ ∧ ¬ IllegalCommand State.reset ⟨0x04, 0, 3, 0, 0, 0, 0, 0⟩ ∧
    ¬ IllegalCommand State.reset ⟨0x01, 9, 0, 0, 0, 1, 0, 0⟩ ∧ ¬ IllegalCommand State.reset ⟨0x02, 9, 1, 0, 0, 1, 0, 0⟩ ∧
    ¬ IllegalCommand State.reset ⟨0x02, 0, 65535, 0, 0, 16, 0, 0⟩ ∧ 1 ≤ State.reset.par.nreg ∧
    (offer (command 0x04 0 3)).inputs = .transaction (.cmd ⟨0x04, 0, 3, 0, 0, 0, 0, 0⟩) false :: [] ∧
    (offer (command 0x04 0 3)).rst = false := by
  and_intros <;> first | decide | (unfold IllegalCommand; decide)

/-- Dropped for its length (7 and 9), dropped for its id, and accepted. -/
theorem witness_FramesAreDroppedOrAccepted :
    (offer (received 0x012 0)).inputs = .transaction (.rx ⟨0x012, 8, Payload.ofBits 0⟩) false :: [] ∧
    (offer (received 0x012 0)).rst = false ∧ ((7 : BitVec 4) ≠ 8 ∨ rxSlot State.reset 0x012 = none) ∧
    ((9 : BitVec 4) ≠ 8 ∨ rxSlot State.reset 0x012 = none) ∧ ((8 : BitVec 4) ≠ 8 ∨ rxSlot State.reset 0x011 = none) ∧
    rxSlot (offer (received 0x012 0)) 0x012 = some 1 ∧ (offer (received 0x012 0)).Inv :=
  ⟨by decide, by decide, by decide, by decide, by decide, by decide, offer_inv _ _⟩

/-- An operation with an illegal operand, and one of each payload class. -/
theorem witness_PortWiresRoundTrip :
    (Instr.qenc 1 2 3 255).classMatches ∧ (Instr.qenc 1 2 3 255).fitsMode .speed ∧
    (Instr.ctrlPsc 255).classMatches ∧ (Instr.ctrlPsc 255).fitsMode .positionSpeedCurrent ∧
    (Instr.rxRsp 0xFFFF (response 0)).classMatches ∧ (Instr.rxRsp 0xFFFF (response 0)).fitsMode .mit ∧
    (Instr.rxFb 0 (Payload.ofBits 0)).classMatches ∧ (Instr.rxFb 0 (Payload.ofBits 0)).fitsMode .mit := by decide

theorem witness_DecodingIsCanonical :
    decode .speed (.cmd ⟨0x08, 7, 1, 2, 3, 4, 5, 6⟩) = .instr (.ctrlSpd 7) ∧
    decode .mit (.rx ⟨3, 8, response 0⟩) = .instr (.rxRsp 3 (response 0)) := by decide

/-- A tie: `1 + 2^-24` lies midway between `1` and the next value, and the even pattern `1` is taken; a difference. -/
theorem witness_SumsRoundToNearestEven :
    isFinite 0x3F800000 ∧ isFinite 0x33800000 ∧ isFinite 0x3F800001 ∧
    fadd 0x3F800000 0x33800000 = some 0x3F800000 ∧ fscaled 0x3F800001 ≠ fscaled 0x3F800000 ∧
    (fscaled 0x3F800000 - (fscaled 0x3F800000 + fscaled 0x33800000)).natAbs =
      (fscaled 0x3F800001 - (fscaled 0x3F800000 + fscaled 0x33800000)).natAbs ∧
    fsub 0x3F800001 0x3F800000 = some 0x34000000 ∧ isFinite 0x34000000 ∧ isFinite 0xB3800000 ∧
    fsub 0x3F800000 0xB3800000 = some 0x3F800000 ∧
    (fscaled 0x3F800000 - (fscaled 0x3F800000 - fscaled 0xB3800000)).natAbs =
      (fscaled 0x3F800001 - (fscaled 0x3F800000 - fscaled 0xB3800000)).natAbs := by decide

/-- The overflow bound is met exactly (largest finite value plus half a step), and missed by the value below. -/
theorem witness_FiniteOperandsGiveValues :
    isFinite 0x7F7FFFFF ∧ isFinite 0x73000000 ∧ isFinite 0x72FFFFFF ∧
    (fscaled 0x7F7FFFFF + fscaled 0x73000000).natAbs = (2 ^ 25 - 1) * 2 ^ 252 ∧
    fadd 0x7F7FFFFF 0x73000000 = some 0x7F800000 ∧ fadd 0x7F7FFFFF 0x72FFFFFF = some 0x7F7FFFFF ∧
    isFinite 0x80000001 ∧ fscaled 0x80000001 ≠ 0 := by decide

/-- Two ties: `1.5 * (1 + 2^-23)` midway between two values, and half the least subnormal. -/
theorem witness_ProductsAndQuotientsRoundToNearestEven :
    isFinite 0x3FC00000 ∧ isFinite 0x3F800001 ∧ isFinite 0x3FC00001 ∧ isFinite 0x3FC00002 ∧
    fmul 0x3FC00000 0x3F800001 = some 0x3FC00002 ∧ fscaled 0x3FC00001 ≠ fscaled 0x3FC00002 ∧
    (fscaled 0x3FC00002 * 2 ^ 149 - fscaled 0x3FC00000 * fscaled 0x3F800001).natAbs =
      (fscaled 0x3FC00001 * 2 ^ 149 - fscaled 0x3FC00000 * fscaled 0x3F800001).natAbs ∧
    isFinite 0x00000001 ∧ isFinite 0x40000000 ∧ isFinite 0x00000000 ∧ fscaled 0x40000000 ≠ 0 ∧
    fdiv 0x00000001 0x40000000 = some 0x00000000 ∧ fscaled 0x00000001 ≠ fscaled 0x00000000 ∧
    (fscaled 0x00000000 * fscaled 0x40000000 - fscaled 0x00000001 * 2 ^ 149).natAbs =
      (fscaled 0x00000001 * fscaled 0x40000000 - fscaled 0x00000001 * 2 ^ 149).natAbs := by decide

/-- One pair of operands for each clause: a NaN; two infinities of one sign and of two; `inf * -0.0`; `0/0`; `-1/0`. -/
theorem witness_SpecialValuesOfTheOperations :
    (isNaN 0x7F800001 ∨ isNaN 0) ∧ (isInf 0x7F800000 ∧ isInf 0x7F800000 ∧ fsign 0x7F800000 = fsign 0x7F800000) ∧
    (isInf 0x7F800000 ∧ isInf 0xFF800000 ∧ fsign 0x7F800000 ≠ fsign 0xFF800000) ∧
    (isInf 0xFF800000 ∧ isFinite 0x80000000 ∧ fscaled 0x80000000 = 0) ∧
    (isFinite 0x80000000 ∧ isFinite 0 ∧ fscaled 0x80000000 = 0 ∧ fscaled 0 = 0) ∧
    (isFinite 0xBF800000 ∧ isFinite 0 ∧ fscaled 0xBF800000 ≠ 0 ∧ fscaled 0 = 0) := by decide

theorem witness_SmallIntegersConvertExactly : 0 < 2 ^ 24 ∧ 2 ^ 24 - 1 < 2 ^ 24 := by decide

theorem witness_QencComputesItsRule :
    1 ≤ (1 : Byte).toNat ∧ (1 : Byte).toNat ≤ 16 ∧ 1 ≤ (16 : Byte).toNat ∧ (16 : Byte).toNat ≤ 16 := by decide

/-- The largest raw value of the widest and of the narrowest field; a number and a NaN. -/
theorem witness_QdecComputesItsRule :
    1 ≤ (16 : Byte).toNat ∧ (16 : Byte).toNat ≤ 16 ∧ (65535 : Word).toNat ≤ 2 ^ (16 : Byte).toNat - 1 ∧
    1 ≤ (1 : Byte).toNat ∧ (1 : Byte).toNat ≤ 16 ∧ (1 : Word).toNat ≤ 2 ^ (1 : Byte).toNat - 1 ∧
    quantValue 65535 0xC1480000 0x41480000 16 = some 0x41480000 ∧ quantValue 0 0 0x7F800000 1 = none := by decide

/-- The two ends of a range, and the two bounds of the size of a range (`2^-100` and `2^100`). -/
theorem witness_QencInRangeIsExactTruncation :
    (isFinite 0xC1480000 ∧ isFinite 0x41480000 ∧ fle 0xC1480000 0xC1480000 ∧ fle 0xC1480000 0x41480000 ∧
      fle 0x41480000 0x41480000 ∧ (2 : Int) ^ 49 ≤ fscaled 0x41480000 - fscaled 0xC1480000 ∧
      fscaled 0x41480000 - fscaled 0xC1480000 ≤ (2 : Int) ^ 249) ∧
    (isFinite 0 ∧ isFinite 0x0D800000 ∧ fle 0 0x0D800000 ∧ (2 : Int) ^ 49 = fscaled 0x0D800000 - fscaled 0) ∧
    (isFinite 0 ∧ isFinite 0x71800000 ∧ fle 0 0x71800000 ∧ fscaled 0x71800000 - fscaled 0 = (2 : Int) ^ 249) := by decide

/-- Finite values in order, and both infinities. -/
theorem witness_QencIsMonotone :
    isFinite 0xC1480000 ∧ isFinite 0x41480000 ∧ flt 0xC1480000 0x41480000 ∧ fle 0x3F800000 0x40000000 ∧
    fle 0xFF800000 0x3F800000 ∧ fle 0x40000000 0x7F800000 ∧ 1 ≤ (12 : Byte).toNat ∧ (12 : Byte).toNat ≤ 16 := by decide

/-- Two neighbouring subnormals are a range too. -/
theorem witness_QencOfTheMinimumIsZero :
    isFinite 0x00000001 ∧ isFinite 0x00000002 ∧ flt 0x00000001 0x00000002 ∧ 1 ≤ (1 : Byte).toNat ∧
    (1 : Byte).toNat ≤ 16 := by decide

/-- The nearest values below and above `-12.5..12.5` (V-Q rows 12 and 11), and a NaN; equal and infinite limits, and
`+0.0..-0.0`. -/
theorem witness_QencOutOfRangeIsFlagged :
    fle 0x3F800000 0x3F800000 ∧ flt 0x3F800000 0x3F800001 ∧ flt 0x3F7FFFFF 0x3F800000 ∧ fle 0xFF800000 0x3F800000 ∧
    fle 0x00000000 0x80000000 ∧ flt 0xBF800000 0x00000000 ∧ fle 0xC1480000 0x41480000 ∧ flt 0xC1480001 0xC1480000 ∧
    flt 0x41480000 0x41480001 ∧ isNaN 0x7FC00000 ∧ 1 ≤ (16 : Byte).toNat ∧ (16 : Byte).toNat ≤ 16 := by decide

/-- A NaN limit; reversed limits; equal limits with a value at, and just above them. -/
theorem witness_QencOnDegenerateRanges :
    (isNaN 0x7FC00000 ∨ isNaN 0x3F800000) ∧ flt 0xC1480000 0x41480000 ∧ isFinite 0x00000001 ∧ isFinite 0 ∧ fle 0 0 ∧
    flt 0 0x00000001 ∧ 1 ≤ (16 : Byte).toNat ∧ (16 : Byte).toNat ≤ 16 := by decide

/-- `-0.0..1.0`, for which the minimum comes out as `+0.0`, and `-12.5..12.5`. -/
theorem witness_QdecOfZeroIsTheMinimum :
    1 ≤ (16 : Byte).toNat ∧ (16 : Byte).toNat ≤ 16 ∧ isFinite 0x80000000 ∧ isFinite 0x3F800000 ∧ flt 0x80000000 0x3F800000 ∧
    fsub 0x3F800000 0x80000000 = some 0x3F800000 ∧ isFinite 0xC1480000 ∧ isFinite 0x41480000 ∧
    flt 0xC1480000 0x41480000 ∧ fsub 0x41480000 0xC1480000 = some 0x41C80000 ∧ isFinite 0x41C80000 := by decide

theorem witness_QdecOfNaNLimitsIsNaN : (isNaN 0x7FC00000 ∨ isNaN 0x3F800000) ∧ (isNaN 0 ∨ isNaN 0xFFFFFFFF) := by decide

/-- A slot that is there: slot 1 of 2, and code 3 and code 4. Also the hypothesis of `SETTGT`, `ENABLE`, `SAVEZERO`,
`CLRERR`, `DISABLE`, `REGRD`, `REGWR` and `REGSAVE`. -/
theorem witness_slot : State.reset.motors[(1 : Byte).toNat]? =
      some (Motor.reset 3 ⟨0x0002, 0x0012, 0x41480000, 0x41F00000, 0x41200000⟩) ∧
    (3 : Byte).toNat ≤ 3 ∧ 3 < (4 : Byte).toNat ∧ State.reset.motors[(2 : Byte).toNat]? = none := by decide

/-- A slot in each of the four modes. -/
theorem witness_CtrlSendsItsFrame (mode : Mode) : ∃ m,
    (withSlot 1 (·.withMode mode)).motors[(1 : Byte).toNat]? = some m ∧ m.mode = mode := ⟨_, rfl, rfl⟩

/-- Two states that differ in slot 0, in the torque of slot 1, in its limits and in its cursor, mode `Speed`. -/
theorem witness_ControlFramesReadOnlyTheirModesFields :
    let s := withSlot 1 fun m => m.withMode .speed
    let t := withSlot 0 (·.withTgt targetsP1) (withSlot 1 (fun m => { ((m.withMode .speed).withCursor 2).withTgt
      ⟨1, 0, 3, 4, 5, 6⟩ with cfg := { m.cfg with pMax := 0 } }) State.reset)
    s.par = t.par ∧ ∃ m n s' t', s.motors[(1 : Byte).toNat]? = some m ∧ t.motors[(1 : Byte).toNat]? = some n ∧
      m.mode = n.mode ∧ m.cfg.id = n.cfg.id ∧
      (m.mode = .mit → m.cfg.pMax = n.cfg.pMax ∧ m.cfg.vMax = n.cfg.vMax ∧ m.cfg.tMax = n.cfg.tMax) ∧
      agreeOnRead m.mode m.tgt n.tgt ∧ exec (ctrlInstr m.mode 1) s = .next s' ∧ exec (ctrlInstr m.mode 1) t = .next t' :=
  ⟨rfl, _, _, _, _, rfl, rfl, rfl, rfl, fun h => absurd h (by decide), rfl, rfl, rfl⟩

/-- Mode `Mit`: states that differ in slot 0, and in the cursor and the current of slot 1. -/
theorem witness_ControlFramesReadOnly_mit :
    let s := State.reset
    let t := withSlot 0 (·.withTgt targetsP1) (withSlot 1 (fun m => (m.withCursor 2).withTgt ⟨0, 0, 0, 0, 0, 6⟩))
    s.par = t.par ∧ ∃ m n s' t', s.motors[(1 : Byte).toNat]? = some m ∧ t.motors[(1 : Byte).toNat]? = some n ∧
      m.mode = n.mode ∧ m.cfg.id = n.cfg.id ∧
      (m.mode = .mit → m.cfg.pMax = n.cfg.pMax ∧ m.cfg.vMax = n.cfg.vMax ∧ m.cfg.tMax = n.cfg.tMax) ∧
      agreeOnRead m.mode m.tgt n.tgt ∧ exec (ctrlInstr m.mode 1) s = .next s' ∧ exec (ctrlInstr m.mode 1) t = .next t' :=
  ⟨rfl, _, _, _, _, rfl, rfl, rfl, rfl, fun _ => ⟨rfl, rfl, rfl⟩, ⟨rfl, rfl, rfl, rfl, rfl⟩, rfl, rfl⟩

theorem witness_ScanstartRequestsTheFirstEntry :
    State.reset.motors[(0 : Byte).toNat]? =
      some (Motor.reset 3 ⟨0x0001, 0x0000, 0x41480000, 0x41F00000, 0x41200000⟩) ∧
    State.reset.par.regTable = ⟨0x15, .f32⟩ :: [⟨0x0A, .u32⟩, ⟨0x17, .f32⟩] := by decide

/-- The highest slot, and a position whose low byte is not the read tag. -/
theorem witness_FeedbackFramesAreDecoded :
    rxSlot State.reset 0x012 = some 1 ∧ (State.reset.motors[1]?).isSome ∧ (0x3332 : BitVec 16).extractLsb' 0 8 ≠ 0x33 := by
  decide

/-- `Reading(2)`, which advances, and `Reading(3)`, the last state of the scan. -/
theorem witness_ExpectedResponsesAdvanceTheScan :
    rxSlot (withSlot 0 (·.withCursor 2)) 0x000 = some 0 ∧ rxSlot (withSlot 0 (·.withCursor 3)) 0x000 = some 0 ∧
    ((withSlot 0 (·.withCursor 2)).motors[0]?).map Motor.cursor = some (1 + 1) ∧
    State.reset.par.regTable[1]? = some ⟨0x0A, .u32⟩ ∧ State.reset.par.regTable[1 + 1]? = some ⟨0x17, .f32⟩ ∧
    ((withSlot 0 (·.withCursor 3)).motors[0]?).map Motor.cursor = some (2 + 1) ∧
    State.reset.par.regTable[2]? = some ⟨0x17, .f32⟩ ∧ State.reset.par.regTable[2 + 1]? = none := by decide

theorem witness_MismatchedResponsesAreDesync :
    rxSlot scanning 0x000 = some 0 ∧ (∃ m, scanning.motors[0]? = some m ∧ m.cursor = 0 + 1) ∧
    scanning.par.regTable[0]? = some ⟨0x15, .f32⟩ ∧ (response 0x17).b2 = 0x33 ∧ (response 0x17).b3 ≠ 0x15 :=
  ⟨by decide, ⟨_, rfl, rfl⟩, by decide, by decide, by decide⟩

theorem witness_ResponsesInIdleAreIgnored :
    rxSlot State.reset 0x000 = some 0 ∧ (∃ m, State.reset.motors[0]? = some m ∧ m.cursor = 0) ∧
    (response 0x15).b2 = 0x33 := ⟨by decide, ⟨_, rfl, rfl⟩, by decide⟩

/-- The scan of program P3. -/
theorem witness_InOrderResponsesCompleteTheScan :
    let vals : List Word := [0x41480000, 1, 0x41200000]
    let s : State := { scanning with inputs := scanResponses 0x000 1 0 false scanning.par.regTable vals }
    s.Inv ∧ s.rst = false ∧ rxSlot s 0x000 = some 0 ∧ (∃ m, s.motors[0]? = some m ∧ m.cursor = 1) ∧
    vals.length = s.par.nreg ∧ 0 < s.par.nreg ∧ 2 < s.par.nreg :=
  ⟨⟨scanning_inv.nmotor_pos, scanning_inv.nmotor_le, scanning_inv.nreg_pos, scanning_inv.motors⟩, rfl, by decide, ⟨_, rfl, rfl⟩, rfl, by decide, by decide⟩

theorem witness_LateDuplicatesAreDesync :
    (scanning.par.regTable.map RegEntry.rid).Nodup ∧ rxSlot scanning 0x000 = some 0 ∧
    (∃ m, scanning.motors[0]? = some m ∧ m.cursor = 0 + 1) ∧ 0 + 1 < scanning.par.nreg ∧
    scanning.par.regTable[0]? = some ⟨0x15, .f32⟩ ∧ (response 0x15).b2 = 0x33 ∧ (response 0x15).b3 = 0x15 ∧
    ∃ t m', exec (.rxRsp 0x000 (response 0x15)) scanning = .next t ∧ t.motors[0]? = some m' :=
  ⟨by decide, by decide, ⟨_, rfl, rfl⟩, by decide, by decide, by decide, by decide, ⟨_, _, rfl, rfl⟩⟩

/-- The default; and a table with an id named twice, one that names no slot of the registry, and one not named. -/
theorem witness_RxMapPicksTheOwningSlot :
    let pairs : List (Id16 × Nat) := [(5, 1), (6, 2), (5, 0)]
    let s : State := { State.reset with par := { State.reset.par with rxMap := .table pairs } }
    State.reset.par.rxMap = .byMasterId ∧ rxSlot State.reset 0x012 = some 1 ∧ rxSlot State.reset 0x013 = none ∧
    s.par.rxMap = .table pairs ∧ rxSlot s 5 = some 1 ∧ rxSlot s 6 = none ∧ rxSlot s 7 = none := by decide

/-- An operation with a frame, one without, and an RX operation, each answering a next state: the hypotheses of
`StatusWordsThatOccur`, `TransportAnswerOnlySetsTxErr`, `FramesHaveTheirLengths`, `FramesGoToTheirDestinations` and
`OtherSlotsAreUntouched`. -/
theorem witness_exec_answers_frames :
    (∃ t r f, exec (.ctrlSpd 1) (withSlot 1 (·.withMode .speed)) = .next t ∧ t.resp = some r ∧ r.frame = some f) ∧
    (∃ t r f, exec (.ctrlMit 0) { State.reset with txFail := false } = .next t ∧ t.resp = some r ∧ r.frame = some f) ∧
    (∃ t r f, exec (.regrd 1 0x15) State.reset = .next t ∧ t.resp = some r ∧ r.frame = some f) ∧
    (∃ t r f, exec (.rxRsp 0x000 (response 0x15)) scanning = .next t ∧ t.resp = some r ∧ r.frame = some f) ∧
    (∃ t, exec (.setmode 1 2) State.reset = .next t) ∧ namedSlot State.reset (.setmode 1 2) ≠ some 0 :=
  ⟨⟨_, _, _, rfl, rfl, rfl⟩, ⟨_, _, _, rfl, rfl, rfl⟩, ⟨_, _, _, rfl, rfl, rfl⟩, ⟨_, _, _, rfl, rfl, rfl⟩, ⟨_, rfl⟩,
    by decide⟩

/-- A dropped frame, and a command of slot 0: no other slot is named. -/
theorem witness_OtherSlotsAreUntouched :
    (∃ t, step (offer (received 0x7FF 0)) = .next t) ∧ wordSlot (offer (received 0x7FF 0)) (received 0x7FF 0) ≠ some 1 ∧
    (∃ t, step (offer (command 0x0D 0)) = .next t) ∧ wordSlot (offer (command 0x0D 0)) (command 0x0D 0) ≠ some 1 ∧
    (offer (command 0x0D 0)).rst = false ∧
    (offer (command 0x0D 0)).inputs = .transaction (command 0x0D 0) false :: [] :=
  ⟨⟨_, rfl⟩, by decide, ⟨_, rfl⟩, by decide, rfl, rfl⟩

/-- R8 (e) holds of the reset state of `VP`. -/
theorem reset_limits : State.reset.LimitsUsable := by
  intro m hm
  have : m.cfg = ⟨0x0001, 0x0000, 0x41480000, 0x41F00000, 0x41200000⟩ ∨
      m.cfg = ⟨0x0002, 0x0012, 0x41480000, 0x41F00000, 0x41200000⟩ := by
    have : m = Motor.reset 3 ⟨0x0001, 0x0000, 0x41480000, 0x41F00000, 0x41200000⟩ ∨
        m = Motor.reset 3 ⟨0x0002, 0x0012, 0x41480000, 0x41F00000, 0x41200000⟩ := by
      simpa [State.reset, State.resetWith, SlotConfig.vectors, Params.vectors, Params.nreg] using hm
    rcases this with rfl | rfl <;> simp [Motor.reset]
  rcases this with h | h <;> rw [h] <;>
    exact ⟨⟨by decide, by decide⟩, ⟨by decide, by decide⟩, ⟨by decide, by decide⟩⟩

/-- The premise of the last clause of `FramesGoToTheirDestinations` (R8 (b)). -/
theorem witness_IdsLegal : State.reset.IdsLegal := by
  intro m hm mode
  have : m.cfg.id = 0x0001 ∨ m.cfg.id = 0x0002 := by
    have : m = Motor.reset 3 ⟨0x0001, 0x0000, 0x41480000, 0x41F00000, 0x41200000⟩ ∨
        m = Motor.reset 3 ⟨0x0002, 0x0012, 0x41480000, 0x41F00000, 0x41200000⟩ := by
      simpa [State.reset, State.resetWith, SlotConfig.vectors, Params.vectors, Params.nreg] using hm
    rcases this with rfl | rfl <;> simp [Motor.reset]
  rcases this with h | h <;> rw [h] <;> cases mode <;> decide

/-- The record of slot 0 after an operation. -/
def execRecord (i : Instr) (s : State) : Option Motor :=
  match exec i s with
  | .next t => t.motors[0]?
  | .fault _ => none
  | .refused _ => none

/-- Each field of a record does change under its owner: the mode, the targets, the feedback, the cache, the cursor. -/
theorem witness_FieldsAreWrittenByTheirOwners :
    (execRecord (.setmode 0 2) State.reset).map Motor.mode = some .speed ∧
    (execRecord (.settgt 0 1 2 3 4 5 6) State.reset).map Motor.tgt = some ⟨1, 2, 3, 4, 5, 6⟩ ∧
    (execRecord (.rxRsp 0x000 (response 0x15)) scanning).map (fun m => (m.fb.rawPos, m.cache, m.cursor)) =
      some (51, [0x41480000, 0, 0], 2) ∧
    (execRecord (.scanstart 0) State.reset).map Motor.cursor = some 1 := by decide

/-- A command on slot 0 and a response for slot 1. -/
theorem witness_TransactionsOnDifferentSlotsCommute :
    let x := command 0x13 0
    let y : PortWord := .rx ⟨0x012, 8, response 0x15⟩
    State.reset.rst = false ∧ wordSlot State.reset x = some 0 ∧ wordSlot State.reset y = some 1 ∧ (0 : Nat) ≠ 1 ∧
    (∃ s₁ s₂, step { State.reset with inputs := [.transaction x true, .transaction y false] } = .next s₁ ∧
      step s₁ = .next s₂) ∧
    (∃ t₁ t₂, step { State.reset with inputs := [.transaction y false, .transaction x true] } = .next t₁ ∧
      step t₁ = .next t₂) :=
  ⟨rfl, by decide, by decide, by decide, ⟨_, _, rfl, rfl⟩, ⟨_, _, rfl, rfl⟩⟩

theorem witness_ResetMeetsTheInvariant :
    1 ≤ Params.vectors.nreg ∧ 1 ≤ SlotConfig.vectors.length ∧ SlotConfig.vectors.length ≤ 256 := by decide

/-- A state that meets the invariant and steps: also the hypothesis of `InvariantStatesNeverStop`. -/
theorem witness_StepsKeepTheInvariant :
    (offer (command 0x13 0)).Inv ∧ ∃ t, step (offer (command 0x13 0)) = .next t := ⟨offer_inv _ _, _, rfl⟩

theorem witness_ResetStateIsZero :
    SlotConfig.vectors[1]? = some ⟨0x0002, 0x0012, 0x41480000, 0x41F00000, 0x41200000⟩ := by decide

theorem witness_ReleaseOfResetZeroesEverySlot :
    ({ State.reset with inputs := [.releaseReset SlotConfig.vectors] } : State).inputs =
      .releaseReset SlotConfig.vectors :: [] ∧
    SlotConfig.vectors.length = ({ State.reset with inputs := [.releaseReset SlotConfig.vectors] } : State).nmotor := by
  decide

theorem witness_NothingIsAcceptedInReset :
    ({ State.reset with inputs := [.assertReset] } : State).inputs = .assertReset :: [] ∧
    ({ offer (command 0x0C 0) true with rst := true } : State).rst = true ∧
    ({ offer (command 0x0C 0) true with rst := true } : State).inputs = .transaction (command 0x0C 0) true :: [] := by
  decide

/-- A step of a transaction, and one that samples other configuration inputs. -/
theorem witness_ParametersAndConfigurationAreConstant :
    (∃ t, step (offer (command 0x0D 0)) = .next t) ∧
    ∃ t, step { State.reset with inputs := [.releaseReset []] } = .next t := ⟨⟨_, rfl⟩, _, rfl⟩

/-- R5 and R8 (a) to (e) hold of a state with a command offered: the premises of the clause on them. -/
theorem witness_Legal : (offer (command 0x0D 0)).Legal ∧
    ∀ cfgs rest, (offer (command 0x0D 0)).inputs ≠ .releaseReset cfgs :: rest :=
  ⟨⟨by decide, by decide, ⟨by decide, by decide, by decide, by decide, by decide⟩, witness_IdsLegal, reset_limits⟩,
    fun _ _ h => by simp [offer] at h⟩

theorem witness_DecodedFeedbackDiffersFromReset :
    usableLimit 0x41480000 ∧ fsub 0x41480000 (fneg 0x41480000) = some 0x41C80000 ∧ isFinite 0x41C80000 ∧
    (Payload.ofBits 0xFF0000FFFFFFFFFF).b1 = 0 ∧ (Payload.ofBits 0xFF0000FFFFFFFFFF).b2 = 0 := by
  simp only [usableLimit]; decide

/-- The clause on velocity and torque: slot 1 of `VP`, whose limits are as R8 (e) asks (`reset_limits`). -/
theorem witness_DecodedFeedbackDiffersFromReset_limits :
    (State.reset.motors[1]?).map (fun m => (m.cfg.vMax, m.cfg.tMax)) = some (0x41F00000, 0x41200000) ∧
    fsub 0x41F00000 (fneg 0x41F00000) = some 0x42700000 ∧ isFinite 0x42700000 ∧
    fsub 0x41200000 (fneg 0x41200000) = some 0x41A00000 ∧ isFinite 0x41A00000 ∧
    (Payload.ofBits 0xFFFFFF000000FFFF).b3 = 0 ∧ (Payload.ofBits 0xFFFFFF000000FFFF).b4 = 0 ∧
    (Payload.ofBits 0xFFFFFF000000FFFF).b5 = 0 := by decide

/-- The last entry of the table. -/
theorem witness_TypedViewKeepsTheBits :
    (∃ m, State.reset.motors[1]? = some m ∧ m.cache[2]? = some 0) ∧
    State.reset.par.regTable[2]? = some ⟨0x17, .f32⟩ := ⟨⟨_, rfl, rfl⟩, by decide⟩

end Sys2Proof.Tests
end

section
/-! SUPPORT. The invariant of the registry (10_state.md R30 to R36): what resets a record, what writes
one, and the step. -/

namespace Sys2Proof.Machine

/-! ## Records -/

/-- R44: a record as reset leaves it. -/
theorem motorReset_inv (p : Params) (cfg : SlotConfig) : (Motor.reset p.nreg cfg).Inv p where
  cache_length := List.length_replicate
  cursor_le := Nat.zero_le _
  state_lt := (by decide : Feedback.zero.state.toNat < 16)
  idEcho_lt := (by decide : Feedback.zero.idEcho.toNat < 16)
  feedback := .inl rfl

/-- R32: the state nibble. -/
theorem cutState_lt (data : Payload) : (cutState data).toNat < 16 := by
  have h := (data.b0.extractLsb' 4 4).isLt
  simp only [cutState, BitVec.toNat_setWidth]
  omega

/-- R32: the id nibble. -/
theorem cutIdEcho_lt (data : Payload) : (cutIdEcho data).toNat < 16 := by
  have h := (data.b0.extractLsb' 0 4).isLt
  simp only [cutIdEcho, BitVec.toNat_setWidth]
  omega

theorem feedbackOf_decoded (cfg : SlotConfig) (data : Payload) : FeedbackDecoded cfg (feedbackOf cfg data) :=
  ⟨rfl, rfl, rfl, ⟨data.b6, rfl⟩, ⟨data.b7, rfl⟩⟩

/-- An operation on a slot writes no cache word and no feedback, and a cursor only as `SCANSTART` does. -/
theorem SlotEffect.inv {p : Params} {slot : Byte} {i : Instr} {m m' : Motor} (h : SlotEffect p slot m i m')
    (hm : m.Inv p) : m'.Inv p := by
  cases h with
  | mode | tgt | disabled => exact ⟨hm.cache_length, hm.cursor_le, hm.state_lt, hm.idEcho_lt, hm.feedback⟩
  | scan hreg => exact ⟨hm.cache_length, hreg, hm.state_lt, hm.idEcho_lt, hm.feedback⟩

/-- R34, R36: the sequencer keeps the length of the cache and the range of the cursor. -/
theorem ScanEffect.keeps_ranges {p : Params} {data : Payload} {m m' : Motor} (h : ScanEffect p data m m')
    (hm : m.Inv p) : m'.cache.length = p.nreg ∧ m'.cursor ≤ p.nreg := by
  rcases h with ⟨hcache, hcursor⟩ | ⟨n, e, -, -, -, -, hcache, hcursor⟩
  · exact ⟨hcache ▸ hm.cache_length, hcursor ▸ hm.cursor_le⟩
  · refine ⟨by rw [hcache, List.length_set, hm.cache_length], ?_⟩
    rw [hcursor]
    split <;> omega

/-- R30 to R32: a received frame leaves a decoded feedback group, whatever the sequencer does. -/
theorem received_inv {p : Params} {data : Payload} {m m' : Motor} (hcfg : m'.cfg = m.cfg)
    (hfb : m'.fb = feedbackOf m.cfg data) (hscan : ScanEffect p data m m') (hm : m.Inv p) : m'.Inv p where
  cache_length := (hscan.keeps_ranges hm).1
  cursor_le := (hscan.keeps_ranges hm).2
  state_lt := hfb ▸ cutState_lt data
  idEcho_lt := hfb ▸ cutIdEcho_lt data
  feedback := .inr (by rw [hfb, hcfg]; exact feedbackOf_decoded m.cfg data)

/-! ## States -/

/-- The invariant is about the parameters and the registry alone. -/
theorem State.Inv.congr {s t : State} (hs : s.Inv) (hpar : t.par = s.par) (hmotors : t.motors = s.motors) : t.Inv where
  nmotor_pos := by rw [State.nmotor, hmotors]; exact hs.nmotor_pos
  nmotor_le := by rw [State.nmotor, hmotors]; exact hs.nmotor_le
  nreg_pos := by rw [hpar]; exact hs.nreg_pos
  motors := by rw [hpar, hmotors]; exact hs.motors

theorem State.Inv.setMotor {s : State} {m : Motor} (hs : s.Inv) (k : Nat) (hm : m.Inv s.par) :
    (s.setMotor k m).Inv where
  nmotor_pos := by rw [setMotor_nmotor]; exact hs.nmotor_pos
  nmotor_le := by rw [setMotor_nmotor]; exact hs.nmotor_le
  nreg_pos := hs.nreg_pos
  motors := by
    intro x hx
    rcases List.mem_or_eq_of_mem_set hx with hx | rfl
    · exact hs.motors x hx
    · exact hm

theorem State.Inv.motor {s : State} {k : Nat} {m : Motor} (hs : s.Inv) (hm : s.motors[k]? = some m) : m.Inv s.par :=
  hs.motors m (List.mem_of_getElem? hm)

/-- R240: the release of `rst` resets every record there is. -/
theorem State.Inv.releaseReset {s : State} (hs : s.Inv) (cfgs : List SlotConfig) : (s.releaseReset cfgs).Inv where
  nmotor_pos := by rw [releaseReset_nmotor]; exact hs.nmotor_pos
  nmotor_le := by rw [releaseReset_nmotor]; exact hs.nmotor_le
  nreg_pos := hs.nreg_pos
  motors := by
    intro x hx
    obtain ⟨k, hk, rfl⟩ := List.mem_mapIdx.1 hx
    exact motorReset_inv _ _

theorem exec_keeps_inv {i : Instr} {s t : State} (h : exec i s = .next t) (hs : s.Inv) : t.Inv := by
  rcases exec_effect h with ⟨r, rfl⟩ | ⟨slot, m, m', r, -, hm, rfl, heff⟩ |
    ⟨rxId, data, k, m, m', r, -, -, hm, rfl, hcfg, -, -, hfb, hscan⟩
  · exact hs.congr rfl rfl
  · exact (hs.setMotor slot.toNat (heff.inv (hs.motor hm))).congr rfl rfl
  · exact (hs.setMotor k (received_inv hcfg hfb hscan (hs.motor hm))).congr rfl rfl

/-- A word that names no operation leaves the registry as it is (R89, R194). -/
theorem rejectWord_keeps_inv (e : DecodeError) {s : State} (hs : s.Inv) : (rejectWord e s).Inv := by
  cases e <;> exact hs.congr rfl rfl

/-- Settles O50, by the cases of a step; for an operation, by the record it writes. -/
theorem stepsKeepTheInvariant : Obligations.StepsKeepTheInvariant := by
  intro s t hs h
  have taken (rest : List Event) (txFail : Bool) : (takeTransaction s rest txFail).Inv := hs.congr rfl rfl
  rcases step_cases h with ⟨-, rfl⟩ | ⟨rest, -, rfl⟩ | ⟨cfgs, rest, -, rfl⟩ | ⟨w, f, rest, -, -, rfl⟩ |
    ⟨w, f, rest, e, -, -, -, rfl⟩ | ⟨w, f, rest, i, -, -, -, hexec⟩
  · exact hs.congr rfl rfl
  · exact hs.congr rfl rfl
  · exact State.Inv.releaseReset (s := { s with inputs := rest }) (hs.congr rfl rfl) cfgs
  · exact hs.congr rfl rfl
  · exact rejectWord_keeps_inv e (taken rest f)
  · exact exec_keeps_inv hexec (taken rest f)

end Sys2Proof.Machine
end

section
/-! SUPPORT. The map of received ids (00_scope.md R7): the default, and a table. -/

namespace Sys2Proof.Machine

/-- The default of R7: the lowest slot with that `MASTER_ID`. -/
theorem rxSlot_byMasterId {s : State} {id : Id16} {k : Nat} (hmap : s.par.rxMap = .byMasterId) :
    rxSlot s id = some k ↔ (∃ m, s.motors[k]? = some m ∧ m.cfg.masterId = id) ∧
      ∀ j m, j < k → s.motors[j]? = some m → m.cfg.masterId ≠ id := by
  simp only [rxSlot, hmap, List.findIdx?_eq_some_iff_getElem, beq_iff_eq, List.getElem?_eq_some_iff]
  constructor
  · rintro ⟨hk, howns, hlower⟩
    exact ⟨⟨_, ⟨hk, rfl⟩, howns⟩, by rintro j _ hj ⟨hlt, rfl⟩; exact hlower j hj⟩
  · rintro ⟨⟨_, ⟨hk, rfl⟩, howns⟩, hlower⟩
    exact ⟨hk, howns, fun j hj => hlower j _ hj ⟨hj.trans hk, rfl⟩⟩

/-- The table form (log 3): the first pair that names the id, if it names a slot of the registry. -/
theorem rxSlot_table {s : State} {id : Id16} {k : Nat} {pairs : List (Id16 × Nat)}
    (hmap : s.par.rxMap = .table pairs) :
    rxSlot s id = some k ↔ k < s.nmotor ∧
      ∃ before after, pairs = before ++ (id, k) :: after ∧ ∀ p ∈ before, p.1 ≠ id := by
  simp only [rxSlot, hmap, Option.filter_eq_some_iff, List.lookup_eq_some_iff, decide_eq_true_eq, bne_iff_ne,
    State.nmotor, ne_comm (a := id)]
  exact and_comm

/-- Settles O41: the two forms of the map. -/
theorem rxMapPicksTheOwningSlot : Obligations.RxMapPicksTheOwningSlot :=
  ⟨fun _ _ _ hmap => rxSlot_byMasterId hmap, fun _ _ _ _ hmap => rxSlot_table hmap⟩

end Sys2Proof.Machine
end

section
/-! SUPPORT. Binary32 (00_scope.md R14): the fields of a pattern, the magnitude a rounding produces, and that it is a
nearest one, a tie to even. A finite value is `signed (fsign x) (fmag x)` units of `2^-149`. -/

namespace Sys2Proof.Machine

/-! ## Signed magnitudes -/

/-- A magnitude with a sign. -/
def signed (neg : Bool) (n : Nat) : Int := if neg then -(n : Int) else n

theorem fscaled_eq_signed (x : F32) : fscaled x = signed (fsign x) (fmag x) := rfl

@[simp] theorem signed_zero (neg : Bool) : signed neg 0 = 0 := by cases neg <;> rfl

@[simp] theorem natAbs_signed (neg : Bool) (n : Nat) : (signed neg n).natAbs = n := by
  cases neg <;> simp [signed]

@[simp] theorem signed_eq_zero {neg : Bool} {n : Nat} : signed neg n = 0 ↔ n = 0 := by
  cases neg <;> simp [signed]

theorem signed_mul_signed (a b : Bool) (m n : Nat) : signed a m * signed b n = signed (a != b) (m * n) := by
  cases a <;> cases b <;> simp [signed]

theorem signed_mul_natCast (neg : Bool) (m n : Nat) : signed neg m * (n : Int) = signed neg (m * n) := by
  cases neg <;> simp [signed]

theorem neg_signed (neg : Bool) (n : Nat) : -signed neg n = signed (!neg) n := by cases neg <;> simp [signed]

theorem natAbs_sub_signed_same (neg : Bool) (m n : Nat) :
    (signed neg m - signed neg n).natAbs = (m - n : Int).natAbs := by
  cases neg <;> simp only [signed, if_true, Bool.false_eq_true, if_false]
  omega

theorem natAbs_sub_signed_other {a b : Bool} (h : a ≠ b) (m n : Nat) :
    (signed a m - signed b n).natAbs = m + n := by
  obtain rfl : a = !b := Bool.eq_not.2 h
  cases b <;> simp only [signed, Bool.not_true, Bool.not_false, if_true, Bool.false_eq_true, if_false] <;> omega

theorem eq_signed_natAbs (z : Int) : z = signed (z < 0) z.natAbs := by
  by_cases hz : z < 0 <;> simp only [signed, hz, decide_true, decide_false, if_true, Bool.false_eq_true, if_false] <;>
    omega

/-! ## The fields of a pattern (R12) -/

theorem fsign_eq (x : F32) : fsign x = decide (x.toNat / 2 ^ 31 % 2 = 1) := by
  rw [fsign, ← BitVec.testBit_toNat, Nat.testBit_eq_decide_div_mod_eq]

theorem fexp_eq (x : F32) : fexp x = x.toNat / 2 ^ 23 % 2 ^ 8 := by
  rw [fexp, BitVec.extractLsb'_toNat, Nat.shiftRight_eq_div_pow]

theorem ffrac_eq (x : F32) : ffrac x = x.toNat % 2 ^ 23 := by
  rw [ffrac, BitVec.extractLsb'_toNat, Nat.shiftRight_zero]

section
variable {p : Nat} (neg : Bool)

theorem withSign_toNat (hp : p < 2 ^ 31) : (withSign neg p).toNat = p + if neg then 2 ^ 31 else 0 := by
  rw [withSign, BitVec.toNat_ofNat]
  split <;> omega

theorem fsign_withSign (hp : p < 2 ^ 31) : fsign (withSign neg p) = neg := by
  rw [fsign_eq, withSign_toNat neg hp, Bool.eq_iff_iff, decide_eq_true_iff]
  cases neg <;> simp only [if_true, Bool.false_eq_true, if_false, iff_true, iff_false] <;> omega

theorem fexp_withSign (hp : p < 2 ^ 31) : fexp (withSign neg p) = p / 2 ^ 23 := by
  rw [fexp_eq, withSign_toNat neg hp]
  split <;> omega

theorem ffrac_withSign (hp : p < 2 ^ 31) : ffrac (withSign neg p) = p % 2 ^ 23 := by
  rw [ffrac_eq, withSign_toNat neg hp]
  split <;> omega

theorem lsb_withSign (hp : p < 2 ^ 31) : (withSign neg p).getLsbD 0 = decide (p % 2 = 1) := by
  rw [← BitVec.testBit_toNat, Nat.testBit_eq_decide_div_mod_eq, withSign_toNat neg hp, decide_eq_decide]
  split <;> omega

/-- The patterns up to that of infinity are values. -/
theorem isNaN_withSign (hp : p ≤ 0x7F800000) : isNaN (withSign neg p) = false := by
  rw [isNaN, fexp_withSign neg (by omega), ffrac_withSign neg (by omega), Bool.eq_false_iff]
  simp only [ne_eq, Bool.and_eq_true, beq_iff_eq, bne_iff_ne]
  omega

theorem isInf_withSign (hp : p ≤ 0x7F800000) : isInf (withSign neg p) = decide (p = 0x7F800000) := by
  rw [isInf, fexp_withSign neg (by omega), ffrac_withSign neg (by omega), Bool.eq_iff_iff]
  simp only [Bool.and_eq_true, beq_iff_eq, decide_eq_true_eq]
  omega

theorem isFinite_withSign (hp : p ≤ 0x7F800000) : isFinite (withSign neg p) = decide (p < 0x7F800000) := by
  rw [isFinite, fexp_withSign neg (by omega), Bool.eq_iff_iff]
  simp only [bne_iff_ne, ne_eq, decide_eq_true_eq]
  omega

end

/-- A finite pattern is neither a NaN nor an infinity. -/
theorem isFinite_iff {x : F32} : isFinite x = true ↔ isNaN x = false ∧ isInf x = false := by
  by_cases h : fexp x = 255 <;> simp [isFinite, isNaN, isInf, h]

/-- A finite magnitude has a significand of 24 bits at some place. -/
theorem fmag_eq_mul_two_pow (x : F32) : ∃ sig place, fmag x = sig * 2 ^ place ∧ sig < 2 ^ 24 := by
  have hfrac : ffrac x < 2 ^ 23 := (x.extractLsb' 0 23).isLt
  by_cases he : fexp x = 0
  · exact ⟨ffrac x, 0, by simp [fmag, he], by omega⟩
  · exact ⟨2 ^ 23 + ffrac x, fexp x - 1, by simp [fmag, he], by omega⟩

/-- The value of a pattern put together from a place and a significand: one of `2^24` carries into the exponent. -/
theorem fmag_withSign (neg : Bool) {place sig : Nat} (hle : sig ≤ 2 ^ 24) (hge : place ≠ 0 → 2 ^ 23 ≤ sig)
    (hp : place * 2 ^ 23 + sig < 2 ^ 31) : fmag (withSign neg (place * 2 ^ 23 + sig)) = sig * 2 ^ place := by
  rw [fmag, fexp_withSign neg hp, ffrac_withSign neg hp]
  rcases Nat.lt_or_ge sig (2 ^ 23) with hsub | hnorm
  · have h0 : place = 0 := by by_contra h; exact absurd (hge h) (by omega)
    subst h0
    rw [if_pos (by omega)]
    omega
  · rcases Nat.lt_or_eq_of_le hle with hlt | rfl
    · have hexp : (place * 2 ^ 23 + sig) / 2 ^ 23 = place + 1 := by omega
      have hfrac : (place * 2 ^ 23 + sig) % 2 ^ 23 = sig - 2 ^ 23 := by omega
      rw [hexp, hfrac, if_neg (by omega), Nat.add_sub_cancel, Nat.add_sub_cancel' hnorm]
    · have hexp : (place * 2 ^ 23 + 2 ^ 24) / 2 ^ 23 = place + 2 := by omega
      have hfrac : (place * 2 ^ 23 + 2 ^ 24) % 2 ^ 23 = 0 := by omega
      rw [hexp, hfrac, if_neg (by omega), Nat.add_zero, show place + 2 - 1 = place + 1 from rfl, pow_succ]
      ring

/-! ## Rounding a quotient to a whole number -/

section
variable {n d : Nat}

/-- The rounded quotient is within half a divisor, and even if it is half a divisor away. -/
theorem divNearestEven_spec (hd : 0 < d) :
    2 * (divNearestEven n d * d) ≤ 2 * n + d ∧ 2 * n ≤ 2 * (divNearestEven n d * d) + d ∧
    (2 * (divNearestEven n d * d) = 2 * n + d ∨ 2 * n = 2 * (divNearestEven n d * d) + d →
      divNearestEven n d % 2 = 0) := by
  have hdiv : n / d * d + n % d = n := Nat.div_add_mod' n d
  have hmod : n % d < d := Nat.mod_lt n hd
  have hup : (n / d + 1) * d = n / d * d + d := Nat.succ_mul (n / d) d
  unfold divNearestEven
  split
  · omega
  · split
    · omega
    · rcases Nat.mod_two_eq_zero_or_one (n / d) with h | h <;> rw [h]
      · rw [Nat.add_zero]; omega
      · omega

theorem divNearestEven_le {m : Nat} (hd : 0 < d) (h : n ≤ m * d) : divNearestEven n d ≤ m := by
  by_contra hlt
  have hmul : (m + 1) * d ≤ divNearestEven n d * d := Nat.mul_le_mul_right d (by omega)
  have := divNearestEven_spec (n := n) hd
  rw [Nat.succ_mul] at hmul
  omega

theorem le_divNearestEven {m : Nat} (hd : 0 < d) (h : m * d ≤ n) : m ≤ divNearestEven n d := by
  by_contra hlt
  have hmul : (divNearestEven n d + 1) * d ≤ m * d := Nat.mul_le_mul_right d (by omega)
  have := divNearestEven_spec (n := n) hd
  rw [Nat.succ_mul] at hmul
  omega

theorem divNearestEven_mul (m : Nat) (hd : 0 < d) : divNearestEven (m * d) d = m :=
  Nat.le_antisymm (divNearestEven_le hd le_rfl) (le_divNearestEven hd le_rfl)

/-- From an odd number the rounding goes up at the halfway point already. -/
theorem succ_le_divNearestEven_iff {m : Nat} (hd : 0 < d) (hm : m % 2 = 1) :
    m + 1 ≤ divNearestEven n d ↔ 2 * (m * d) + d ≤ 2 * n := by
  obtain ⟨hlo, hhi, htie⟩ := divNearestEven_spec (n := n) hd
  constructor
  · intro h
    have hmul : (m + 1) * d ≤ divNearestEven n d * d := Nat.mul_le_mul_right d h
    rw [Nat.succ_mul] at hmul
    omega
  · intro h
    by_contra hlt
    rcases Nat.lt_or_ge (divNearestEven n d) m with hm' | hm'
    · have hmul : (divNearestEven n d + 1) * d ≤ m * d := Nat.mul_le_mul_right d hm'
      rw [Nat.succ_mul] at hmul
      omega
    · obtain rfl : m = divNearestEven n d := by omega
      omega

/-- No whole number is nearer to `n / d`, and one as near is an even tie. -/
theorem divNearestEven_nearest (hd : 0 < d) (c : Nat) :
    ((divNearestEven n d * d : Nat) - n : Int).natAbs ≤ ((c * d : Nat) - n : Int).natAbs ∧
    (c ≠ divNearestEven n d →
      ((divNearestEven n d * d : Nat) - n : Int).natAbs = ((c * d : Nat) - n : Int).natAbs →
      divNearestEven n d % 2 = 0) := by
  obtain ⟨hlo, hhi, htie⟩ := divNearestEven_spec (n := n) hd
  rcases Nat.lt_trichotomy c (divNearestEven n d) with h | rfl | h
  · have hmul : (c + 1) * d ≤ divNearestEven n d * d := Nat.mul_le_mul_right d h
    rw [Nat.succ_mul] at hmul
    omega
  · exact ⟨le_rfl, fun h => absurd rfl h⟩
  · have hmul : (divNearestEven n d + 1) * d ≤ c * d := Nat.mul_le_mul_right d h
    rw [Nat.succ_mul] at hmul
    omega

end
/-! ## Rounding to a pattern (R14) -/

section
variable {n d : Nat}

/-- The significand of the rounded `n / d`, at the place `roundShift n d`; `2^24` is a carry. -/
def roundSig (n d : Nat) : Nat := divNearestEven n (d * 2 ^ roundShift n d)

theorem roundPattern_eq (n d : Nat) : roundPattern n d = min (roundShift n d * 2 ^ 23 + roundSig n d) 0x7F800000 := rfl

theorem roundPattern_le (n d : Nat) : roundPattern n d ≤ 0x7F800000 := Nat.min_le_right _ _

theorem ulp_pos (hd : 0 < d) : 0 < d * 2 ^ roundShift n d := Nat.mul_pos hd (Nat.two_pow_pos _)

/-- The place leaves at most 24 bits above it. -/
theorem lt_of_roundShift (hd : 0 < d) : n < 2 ^ 24 * (d * 2 ^ roundShift n d) := by
  have hlog : n / d < 2 ^ ((n / d).log2 + 1) := Nat.lt_log2_self
  have hpow : 2 ^ ((n / d).log2 + 1) ≤ 2 ^ (24 + roundShift n d) :=
    Nat.pow_le_pow_right (by decide) (by unfold roundShift; omega)
  have hn : n < 2 ^ (24 + roundShift n d) * d := (Nat.div_lt_iff_lt_mul hd).1 (hlog.trans_le hpow)
  rwa [pow_add, mul_assoc, mul_comm _ d] at hn

/-- Above the subnormals it leaves exactly 24. -/
theorem le_of_roundShift (hd : 0 < d) (hk : roundShift n d ≠ 0) : 2 ^ 23 * (d * 2 ^ roundShift n d) ≤ n := by
  have hlog : (n / d).log2 = 23 + roundShift n d := by unfold roundShift at hk ⊢; omega
  have hne : n / d ≠ 0 := by
    intro h
    rw [h, Nat.log2_zero] at hlog
    omega
  have hn : 2 ^ (23 + roundShift n d) * d ≤ n := (Nat.le_div_iff_mul_le hd).1 (hlog ▸ Nat.log2_self_le hne)
  rwa [pow_add, mul_assoc, mul_comm _ d] at hn

theorem roundSig_le (hd : 0 < d) : roundSig n d ≤ 2 ^ 24 :=
  divNearestEven_le (ulp_pos hd) (lt_of_roundShift hd).le

theorem le_roundSig (hd : 0 < d) (hk : roundShift n d ≠ 0) : 2 ^ 23 ≤ roundSig n d :=
  le_divNearestEven (ulp_pos hd) (le_of_roundShift hd hk)

/-- The pattern overflows exactly from halfway above the largest finite value on. -/
theorem roundPattern_overflows_iff (hd : 0 < d) :
    roundPattern n d = 0x7F800000 ↔ (2 ^ 25 - 1) * 2 ^ 252 * d ≤ n := by
  have hlt := lt_of_roundShift (n := n) hd
  have hle := le_of_roundShift (n := n) hd
  have hsig := roundSig_le (n := n) hd
  have hsig' := le_roundSig (n := n) hd
  have hcarry : 2 ^ 24 ≤ roundSig n d ↔ _ :=
    succ_le_divNearestEven_iff (m := 2 ^ 24 - 1) (ulp_pos (n := n) hd) (by decide)
  have hlimit : (2 ^ 25 - 1) * 2 ^ 252 * d = (2 ^ 25 - 1) * (d * 2 ^ 252) := by ring
  rw [roundPattern_eq, hlimit]
  rcases Nat.lt_trichotomy (roundShift n d) 253 with hk | hk | hk
  · have hpow : d * 2 ^ roundShift n d ≤ d * 2 ^ 252 :=
      Nat.mul_le_mul_left d (Nat.pow_le_pow_right (by decide) (by omega))
    omega
  · have hpow : d * 2 ^ 253 = 2 * (d * 2 ^ 252) := by ring
    rw [hk, hpow] at hcarry
    omega
  · have hpow : d * 2 ^ 254 ≤ d * 2 ^ roundShift n d :=
      Nat.mul_le_mul_left d (Nat.pow_le_pow_right (by decide) (by omega))
    have hpow' : d * 2 ^ 254 = 4 * (d * 2 ^ 252) := by ring
    have := hle (by omega)
    have := hsig' (by omega)
    omega

/-- The magnitude of a rounding that does not overflow. -/
theorem fmag_round (neg : Bool) (hd : 0 < d) (hfin : roundPattern n d < 0x7F800000) :
    fmag (withSign neg (roundPattern n d)) = roundSig n d * 2 ^ roundShift n d := by
  rw [roundPattern_eq] at hfin ⊢
  rw [Nat.min_eq_left (by omega)]
  exact fmag_withSign neg (roundSig_le hd) (le_roundSig hd) (by omega)

/-- No binary32 magnitude is nearer to `n / d` than the rounded one, and one as near is an even tie. A magnitude that is
no multiple of the rounded one's last place lies below `2^23` of them, and `n / d` does not. -/
theorem roundSig_nearest (hd : 0 < d) (c : F32) :
    ((roundSig n d * 2 ^ roundShift n d * d : Nat) - n : Int).natAbs ≤ ((fmag c * d : Nat) - n : Int).natAbs ∧
    (fmag c ≠ roundSig n d * 2 ^ roundShift n d →
      ((roundSig n d * 2 ^ roundShift n d * d : Nat) - n : Int).natAbs = ((fmag c * d : Nat) - n : Int).natAbs →
      roundSig n d % 2 = 0) := by
  have regroup (m : Nat) : m * 2 ^ roundShift n d * d = m * (d * 2 ^ roundShift n d) := by ring
  obtain ⟨sig, place, hc, hsig⟩ := fmag_eq_mul_two_pow c
  rcases Nat.lt_or_ge place (roundShift n d) with hplace | hplace
  · have hn := le_of_roundShift (n := n) hd (by omega)
    obtain ⟨hnear, -⟩ := divNearestEven_nearest (n := n) (ulp_pos (n := n) hd) (2 ^ 23)
    have hpow : 2 * 2 ^ place ≤ 2 ^ roundShift n d := by
      rw [← pow_succ']; exact Nat.pow_le_pow_right (by decide) hplace
    have hbelow : fmag c * d < 2 ^ 23 * (d * 2 ^ roundShift n d) := by
      have : fmag c < 2 ^ 23 * 2 ^ roundShift n d := by
        have := Nat.mul_lt_mul_of_pos_right hsig (Nat.two_pow_pos place)
        omega
      calc fmag c * d < 2 ^ 23 * 2 ^ roundShift n d * d := Nat.mul_lt_mul_of_pos_right this hd
        _ = _ := regroup _
    rw [regroup, roundSig]
    omega
  · have hmul : fmag c = sig * 2 ^ (place - roundShift n d) * 2 ^ roundShift n d := by
      rw [hc, mul_assoc, ← pow_add, Nat.sub_add_cancel hplace]
    rw [hmul, regroup, regroup]
    obtain ⟨hnear, htie⟩ := divNearestEven_nearest (n := n) (ulp_pos (n := n) hd)
      (sig * 2 ^ (place - roundShift n d))
    exact ⟨hnear, fun hne => htie fun h => hne (congrArg (· * _) h)⟩

end

/-! ## Rounding a signed value -/

/-- `r` is a nearest finite value to `z / d` units, and an even pattern if another is as near (R14). -/
def NearestEven (r : F32) (z : Int) (d : Nat) : Prop :=
  ∀ c : F32, isFinite c →
    (fscaled r * d - z).natAbs ≤ (fscaled c * d - z).natAbs ∧
    (fscaled c ≠ fscaled r → (fscaled r * d - z).natAbs = (fscaled c * d - z).natAbs → r.getLsbD 0 = false)

/-- `r` is the rounding of `n / d` units with a sign: the shape of every finite result. -/
structure Rounded (r : F32) (neg : Bool) (n d : Nat) : Prop where
  pos : 0 < d
  eq : r = withSign neg (roundPattern n d)

namespace Rounded
variable {r : F32} {neg : Bool} {n d : Nat}

theorem isNaN_eq_false (h : Rounded r neg n d) : isNaN r = false :=
  h.eq ▸ isNaN_withSign neg (roundPattern_le n d)

theorem isInf_iff (h : Rounded r neg n d) : isInf r = true ↔ (2 ^ 25 - 1) * 2 ^ 252 * d ≤ n := by
  rw [h.eq, isInf_withSign neg (roundPattern_le n d), decide_eq_true_iff, roundPattern_overflows_iff h.pos]

theorem fsign_eq (h : Rounded r neg n d) : fsign r = neg := by
  rw [h.eq, fsign_withSign neg ((roundPattern_le n d).trans_lt (by decide))]

theorem not_overflows (h : Rounded r neg n d) (hfin : isFinite r = true) : roundPattern n d < 0x7F800000 := by
  rwa [h.eq, isFinite_withSign neg (roundPattern_le n d), decide_eq_true_iff] at hfin

theorem fscaled_eq (h : Rounded r neg n d) (hfin : isFinite r = true) :
    fscaled r = signed neg (roundSig n d * 2 ^ roundShift n d) := by
  rw [fscaled_eq_signed, h.fsign_eq, h.eq, fmag_round neg h.pos (h.not_overflows hfin)]

/-- The last bit of the pattern is that of the significand. -/
theorem lsb (h : Rounded r neg n d) (hfin : isFinite r = true) : r.getLsbD 0 = decide (roundSig n d % 2 = 1) := by
  have hlt := h.not_overflows hfin
  rw [h.eq, lsb_withSign neg (by omega)]
  rw [roundPattern_eq] at hlt ⊢
  congr 1
  rw [eq_iff_iff]
  omega

/-- R14: to nearest, ties to even. A value of the other sign is no nearer than zero is. -/
theorem nearestEven (h : Rounded r neg n d) (hfin : isFinite r = true) : NearestEven r (signed neg n) d := by
  intro c _
  have hlsb : r.getLsbD 0 = false ↔ roundSig n d % 2 = 0 := by
    rw [h.lsb hfin, decide_eq_false_iff_not, Nat.mod_two_not_eq_one]
  rw [hlsb, h.fscaled_eq hfin, fscaled_eq_signed c, signed_mul_natCast, signed_mul_natCast, natAbs_sub_signed_same]
  by_cases hsign : fsign c = neg
  · obtain ⟨hnear, htie⟩ := roundSig_nearest (n := n) h.pos c
    rw [hsign, natAbs_sub_signed_same]
    exact ⟨hnear, fun hne => htie fun heq => hne (congrArg _ heq)⟩
  · obtain ⟨hnear, htie⟩ := roundSig_nearest (n := n) h.pos 0
    have hzero : fmag 0 = 0 := by decide
    rw [hzero, Nat.zero_mul] at hnear htie
    rw [natAbs_sub_signed_other hsign]
    refine ⟨by omega, fun hne heq => htie (fun hV => hne ?_) (by omega)⟩
    have hc : fmag c = 0 := (Nat.mul_eq_zero.1 (show fmag c * d = 0 by omega)).resolve_right h.pos.ne'
    rw [hc, ← hV, signed_zero, signed_zero]

end Rounded

end Sys2Proof.Machine
end

section
/-! SUPPORT. The four operations on finite values and on special ones (00_scope.md R14), and the obligations on them. -/

namespace Sys2Proof.Machine

/-! ## `fneg` -/

@[simp] theorem fsign_fneg (x : F32) : fsign (fneg x) = !fsign x := by
  simp [fsign, fneg]

@[simp] theorem fexp_fneg (x : F32) : fexp (fneg x) = fexp x := by
  rw [fexp, fneg, BitVec.extractLsb'_xor]
  simp [fexp]

@[simp] theorem ffrac_fneg (x : F32) : ffrac (fneg x) = ffrac x := by
  rw [ffrac, fneg, BitVec.extractLsb'_xor]
  simp [ffrac]

@[simp] theorem isNaN_fneg (x : F32) : isNaN (fneg x) = isNaN x := by simp [isNaN]
@[simp] theorem isInf_fneg (x : F32) : isInf (fneg x) = isInf x := by simp [isInf]
@[simp] theorem isFinite_fneg (x : F32) : isFinite (fneg x) = isFinite x := by simp [isFinite]
@[simp] theorem fmag_fneg (x : F32) : fmag (fneg x) = fmag x := by simp [fmag]

@[simp] theorem fscaled_fneg (x : F32) : fscaled (fneg x) = -fscaled x := by
  simp [fscaled_eq_signed, neg_signed]

/-! ## Finite operands: every result is a rounding of the exact one -/

/-- A sum or difference is the rounding of its exact result `z`, whose sign it has; a zero may have either sign. -/
def RoundsTo (o : Option F32) (z : Int) : Prop :=
  ∃ r neg, o = some r ∧ Rounded r neg z.natAbs 1 ∧ z = signed neg z.natAbs

section
variable {a b : F32} (ha : isFinite a = true) (hb : isFinite b = true)
include ha hb

theorem fadd_of_finite : fadd a b = some (addFinite a b) := by
  obtain ⟨ha, ha'⟩ := isFinite_iff.1 ha
  obtain ⟨hb, hb'⟩ := isFinite_iff.1 hb
  simp [fadd, ha, ha', hb, hb']

theorem fadd_rounded : RoundsTo (fadd a b) (fscaled a + fscaled b) := by
  by_cases hz : fscaled a + fscaled b = 0
  · refine ⟨_, fsign a && fsign b, fadd_of_finite ha hb, ⟨Nat.one_pos, ?_⟩, ?_⟩
    · rw [addFinite, if_pos hz, hz]
      rfl
    · rw [hz]
      simp
  · exact ⟨_, _, fadd_of_finite ha hb, ⟨Nat.one_pos, if_neg hz⟩, eq_signed_natAbs _⟩

theorem fsub_rounded : RoundsTo (fsub a b) (fscaled a - fscaled b) := by
  have h := fadd_rounded ha ((isFinite_fneg b).trans hb)
  rwa [fscaled_fneg, ← sub_eq_add_neg] at h

theorem fmul_rounded : ∃ r, fmul a b = some r ∧ Rounded r (fsign a != fsign b) (fmag a * fmag b) (2 ^ 149) := by
  obtain ⟨ha, ha'⟩ := isFinite_iff.1 ha
  obtain ⟨hb, hb'⟩ := isFinite_iff.1 hb
  exact ⟨_, by simp [fmul, ha, ha', hb, hb'], Nat.two_pow_pos _, rfl⟩

theorem fdiv_rounded (hb0 : fscaled b ≠ 0) :
    ∃ r, fdiv a b = some r ∧ Rounded r (fsign a != fsign b) (fmag a * 2 ^ 149) (fmag b) := by
  obtain ⟨ha, ha'⟩ := isFinite_iff.1 ha
  obtain ⟨hb, hb'⟩ := isFinite_iff.1 hb
  have hmag : fmag b ≠ 0 := fun h => hb0 (signed_eq_zero.2 h)
  exact ⟨_, by simp [fdiv, ha, ha', hb, hb', hmag], Nat.pos_of_ne_zero hmag, rfl⟩

end

/-- The distance of `x` from a quotient, scaled by the divisor, does not see the divisor's sign. -/
theorem natAbs_sub_quotient (x : Int) (a b : Bool) (m n s : Nat) :
    (x * signed b n - signed a m * s).natAbs = (x * n - signed (a != b) (m * s)).natAbs := by
  rw [signed_mul_natCast]
  cases b
  · simp [signed]
  · rw [← Int.natAbs_neg]
    cases a <;> simp [signed] <;> congr 1 <;> ring

/-- The finite result of a sum or difference is a nearest value. -/
theorem RoundsTo.nearestEven {o : Option F32} {z : Int} {r : F32} (h : RoundsTo o z) (hr : o = some r)
    (hfin : isFinite r = true) : NearestEven r z 1 := by
  obtain ⟨r', neg, hr', hround, hz⟩ := h
  obtain rfl : r' = r := Option.some.inj (hr'.symm.trans hr)
  have hnear := hround.nearestEven hfin
  rwa [← hz] at hnear

/-- Nearest to a whole number of units: the divisor 1 drops out. -/
theorem nearestEven_one {r : F32} {z : Int} : NearestEven r z 1 ↔ ∀ c : F32, isFinite c →
    (fscaled r - z).natAbs ≤ (fscaled c - z).natAbs ∧
    (fscaled c ≠ fscaled r → (fscaled r - z).natAbs = (fscaled c - z).natAbs → r.getLsbD 0 = false) := by
  simp only [NearestEven, Nat.cast_one, mul_one]

/-- Settles O8: both are the rounding of the exact result, which is a nearest value. -/
theorem sumsRoundToNearestEven : Obligations.SumsRoundToNearestEven :=
  ⟨fun _ _ _ c ha hb hr hfin hc => nearestEven_one.1 ((fadd_rounded ha hb).nearestEven hr hfin) c hc,
    fun _ _ _ c ha hb hr hfin hc => nearestEven_one.1 ((fsub_rounded ha hb).nearestEven hr hfin) c hc⟩

/-- Settles O9: a product in units of `2^-298`; a quotient scaled by the divisor, up to the divisor's sign. -/
theorem productsAndQuotientsRoundToNearestEven : Obligations.ProductsAndQuotientsRoundToNearestEven := by
  constructor
  · intro a b r c ha hb hr hfin hc
    obtain ⟨r', hr', hround⟩ := fmul_rounded ha hb
    obtain rfl : r' = r := Option.some.inj (hr'.symm.trans hr)
    have hexact : fscaled a * fscaled b = signed (fsign a != fsign b) (fmag a * fmag b) := signed_mul_signed ..
    rw [hexact]
    exact hround.nearestEven hfin c hc
  · intro a b r c ha hb hb0 hr hfin hc
    obtain ⟨r', hr', hround⟩ := fdiv_rounded ha hb hb0
    obtain rfl : r' = r := Option.some.inj (hr'.symm.trans hr)
    have hexact (x : Int) : (x * fscaled b - fscaled a * 2 ^ 149).natAbs =
        (x * fmag b - signed (fsign a != fsign b) (fmag a * 2 ^ 149)).natAbs := natAbs_sub_quotient ..
    rw [hexact, hexact]
    exact hround.nearestEven hfin c hc

/-- The sign of a signed magnitude that is not zero. -/
theorem sign_of_eq_signed {z : Int} {neg : Bool} {n : Nat} (hz : z = signed neg n) (hn : n ≠ 0) :
    neg = decide (z < 0) := by
  subst hz
  cases neg <;> simp [signed]
  omega

/-- A sum or difference `z` gives a value, and overflows exactly at the limit, with the sign of `z`. -/
theorem RoundsTo.value {o : Option F32} {z : Int} (h : RoundsTo o z) : ∃ r, o = some r ∧ isNaN r = false ∧
    (isInf r ↔ (2 ^ 25 - 1) * 2 ^ 252 ≤ z.natAbs) ∧ (isInf r → fsign r = decide (z < 0)) := by
  obtain ⟨r, neg, hr, hround, hz⟩ := h
  have hinf : isInf r ↔ _ := hround.isInf_iff
  rw [Nat.mul_one] at hinf
  refine ⟨r, hr, hround.isNaN_eq_false, hinf, fun hover => hround.fsign_eq.trans (sign_of_eq_signed hz ?_)⟩
  have := hinf.1 hover
  omega

/-- Settles O59: what a rounding answers, for each operation. -/
theorem finiteOperandsGiveValues : Obligations.FiniteOperandsGiveValues := by
  refine ⟨fun a b ha hb => (fadd_rounded ha hb).value, fun a b ha hb => (fsub_rounded ha hb).value,
    fun a b ha hb => ?_, fun a b ha hb hb0 => ?_⟩
  · obtain ⟨r, hr, hround⟩ := fmul_rounded ha hb
    have hexact : (fscaled a * fscaled b).natAbs = fmag a * fmag b := by
      rw [fscaled_eq_signed, fscaled_eq_signed, signed_mul_signed, natAbs_signed]
    exact ⟨r, hr, hround.isNaN_eq_false, hexact ▸ hround.isInf_iff, fun _ => hround.fsign_eq⟩
  · obtain ⟨r, hr, hround⟩ := fdiv_rounded ha hb hb0
    have habs (x : F32) : (fscaled x).natAbs = fmag x := natAbs_signed ..
    exact ⟨r, hr, hround.isNaN_eq_false, by rw [habs, habs]; exact hround.isInf_iff, fun _ => hround.fsign_eq⟩

/-! ## Integers -/

/-- A rounding that has nothing to round is exact. -/
theorem roundSig_exact {n d : Nat} (hd : 0 < d) (h : d * 2 ^ roundShift n d ∣ n) :
    roundSig n d * 2 ^ roundShift n d * d = n := by
  obtain ⟨sig, hsig⟩ := h
  have hround : roundSig n d = sig := by
    have := divNearestEven_mul sig (ulp_pos (n := n) hd)
    rwa [mul_comm, ← hsig] at this
  rw [hround]
  calc sig * 2 ^ roundShift n d * d = d * 2 ^ roundShift n d * sig := by ring
    _ = n := hsig.symm

/-- An integer below `2^24` has its last significant bit at `1` or above. -/
theorem roundShift_integer_le {n : Nat} (hn : n < 2 ^ 24) : roundShift (n * 2 ^ 149) 1 ≤ 149 := by
  by_contra hk
  have hle := le_of_roundShift (n := n * 2 ^ 149) Nat.one_pos (by omega)
  have hpow : 2 ^ 150 ≤ 2 ^ roundShift (n * 2 ^ 149) 1 := Nat.pow_le_pow_right (by decide) (by omega)
  omega

theorem u2f_rounded (n : Nat) : Rounded (u2f n) false (n * 2 ^ 149) 1 := ⟨Nat.one_pos, rfl⟩

theorem u2f_finite {n : Nat} (hn : n < 2 ^ 24) : isFinite (u2f n) = true := by
  refine isFinite_iff.2 ⟨(u2f_rounded n).isNaN_eq_false, Bool.eq_false_iff.2 fun hinf => ?_⟩
  have := (u2f_rounded n).isInf_iff.1 hinf
  omega

theorem fscaled_u2f {n : Nat} (hn : n < 2 ^ 24) : fscaled (u2f n) = n * 2 ^ 149 := by
  have hdvd : 1 * 2 ^ roundShift (n * 2 ^ 149) 1 ∣ n * 2 ^ 149 := by
    rw [Nat.one_mul]
    exact (Nat.pow_dvd_pow 2 (roundShift_integer_le hn)).mul_left n
  have hexact := roundSig_exact Nat.one_pos hdvd
  rw [Nat.mul_one] at hexact
  rw [(u2f_rounded n).fscaled_eq (u2f_finite hn), hexact]
  simp [signed]

/-- Settles O11: an integer below `2^24` has at most 24 significant bits, so there is nothing to round. -/
theorem smallIntegersConvertExactly : Obligations.SmallIntegersConvertExactly :=
  fun _ hn => ⟨u2f_finite hn, fscaled_u2f hn⟩

/-! ## Special values -/

theorem not_isNaN_of_isInf {x : F32} (h : isInf x = true) : isNaN x = false := by
  simp only [isInf, Bool.and_eq_true, beq_iff_eq] at h
  simp [isNaN, h.2]

theorem fmag_eq_zero {x : F32} : fmag x = 0 ↔ fscaled x = 0 := signed_eq_zero.symm

theorem operations_of_isNaN {a b : F32} (h : isNaN a = true ∨ isNaN b = true) :
    fadd a b = none ∧ fsub a b = none ∧ fmul a b = none ∧ fdiv a b = none := by
  simp [fsub, fadd, fmul, fdiv, h]

theorem fadd_of_isInf {a b : F32} (ha : isInf a = true) (hb : isInf b = true) (hsign : fsign a ≠ fsign b) :
    fadd a b = none := by
  simp [fadd, not_isNaN_of_isInf ha, not_isNaN_of_isInf hb, ha, hb, hsign]

theorem fsub_of_isInf {a b : F32} (ha : isInf a = true) (hb : isInf b = true) (hsign : fsign a = fsign b) :
    fsub a b = none :=
  fadd_of_isInf ha ((isInf_fneg b).trans hb) (by simp [hsign])

theorem fmul_inf_zero {a b : F32} (ha : isInf a = true) (hb : isFinite b = true) (hb0 : fscaled b = 0) :
    fmul a b = none ∧ fmul b a = none := by
  simp [fmul, not_isNaN_of_isInf ha, (isFinite_iff.1 hb).1, ha, fmag_eq_zero.2 hb0]

theorem fdiv_zero {a b : F32} (ha : isFinite a = true) (hb : isFinite b = true) (hb0 : fscaled b = 0) :
    fdiv a b = if fscaled a = 0 then none else some (infinity (fsign a != fsign b)) := by
  obtain ⟨ha, ha'⟩ := isFinite_iff.1 ha
  obtain ⟨hb, hb'⟩ := isFinite_iff.1 hb
  simp [fdiv, ha, ha', hb, hb', fmag_eq_zero, hb0]

theorem isInf_infinity (neg : Bool) : isInf (infinity neg) = true := isInf_withSign neg le_rfl

theorem fsign_infinity (neg : Bool) : fsign (infinity neg) = neg := fsign_withSign neg (by decide)

/-- Settles O10: NaN operands, two infinities, an infinity times a zero, a division by zero. -/
theorem specialValuesOfTheOperations : Obligations.SpecialValuesOfTheOperations := by
  refine ⟨fun a b => operations_of_isNaN, fun a b ha hb => ⟨fsub_of_isInf ha hb, fadd_of_isInf ha hb⟩,
    fun a b => fmul_inf_zero, fun a b ha hb hb0 => ?_⟩
  rw [fdiv_zero ha hb hb0]
  exact ⟨fun ha0 => if_pos ha0, fun ha0 => ⟨_, if_neg ha0, isInf_infinity _, fsign_infinity _⟩⟩

end Sys2Proof.Machine
end

section
/-! SUPPORT. What reset leaves (10_state.md R44), the typed view of a cache word (R35), and what no step changes but the
release of `rst` (R26, R40): the parameters and the configuration inputs, so the premises of 00_scope.md R5 and R8. -/

namespace Sys2Proof.Machine

/-! ## Reset -/

@[simp] theorem resetWith_motors (par : Params) (cfgs : List SlotConfig) :
    (State.resetWith par cfgs).motors = cfgs.map (Motor.reset par.nreg) := rfl

@[simp] theorem resetWith_nmotor (par : Params) (cfgs : List SlotConfig) :
    (State.resetWith par cfgs).nmotor = cfgs.length := List.length_map _

/-- Settles O49: every record is one that reset leaves. -/
theorem resetMeetsTheInvariant : Obligations.ResetMeetsTheInvariant := by
  intro par cfgs hreg hpos hle
  refine ⟨by rwa [resetWith_nmotor], by rwa [resetWith_nmotor], hreg, fun m hm => ?_⟩
  obtain ⟨cfg, -, rfl⟩ := List.mem_map.1 hm
  exact motorReset_inv par cfg

/-- Settles O52: the record of a slot is the reset value for its configuration inputs. -/
theorem resetStateIsZero : Obligations.ResetStateIsZero := by
  intro par cfgs k cfg hcfg
  have hmotor : (State.resetWith par cfgs).motors[k]? = some (Motor.reset par.nreg cfg) := by
    rw [resetWith_motors, List.getElem?_map, hcfg, Option.map_some]
  exact ⟨hmotor, rfl⟩

/-! ## The typed view of a cache word -/

/-- Settles O57, by the type of the entry. -/
theorem typedViewKeepsTheBits : Obligations.TypedViewKeepsTheBits := by
  intro s slot n m e w hm he hw
  cases hty : e.ty with
  | f32 => simp [observeCache, hm, he, hw, hty]
  | u32 => simp [observeCache, hm, he, hw, hty]

/-! ## Parameters and configuration inputs -/

/-- `t` has the parameters of `s` and, slot by slot, its configuration inputs. -/
structure SameConstants (s t : State) : Prop where
  par : t.par = s.par
  cfgs : t.motors.map Motor.cfg = s.motors.map Motor.cfg

namespace SameConstants
variable {s t : State}

theorem of_motors_eq (hpar : t.par = s.par) (hmotors : t.motors = s.motors) : SameConstants s t :=
  ⟨hpar, congrArg _ hmotors⟩

theorem trans {u : State} (hst : SameConstants s t) (htu : SameConstants t u) : SameConstants s u :=
  ⟨htu.par.trans hst.par, htu.cfgs.trans hst.cfgs⟩

theorem nmotor (h : SameConstants s t) : t.nmotor = s.nmotor := by
  simpa [State.nmotor] using congrArg List.length h.cfgs

/-- Every record of `t` has the configuration inputs of a record of `s`. -/
theorem exists_cfg_eq (h : SameConstants s t) {m : Motor} (hm : m ∈ t.motors) : ∃ m₀ ∈ s.motors, m₀.cfg = m.cfg :=
  List.mem_map.1 (h.cfgs ▸ List.mem_map_of_mem hm)

/-- The premises of R5 and R8 are about the parameters and the configuration inputs alone. -/
theorem legal (h : SameConstants s t) (hs : s.Legal) : t.Legal where
  nmotor_pos := h.nmotor ▸ hs.nmotor_pos
  nmotor_le := h.nmotor ▸ hs.nmotor_le
  params := h.par ▸ hs.params
  ids := by
    intro m hm mode
    obtain ⟨m₀, hm₀, hcfg⟩ := h.exists_cfg_eq hm
    rw [← hcfg, h.par]
    exact hs.ids m₀ hm₀ mode
  limits := by
    intro m hm
    obtain ⟨m₀, hm₀, hcfg⟩ := h.exists_cfg_eq hm
    exact hcfg ▸ hs.limits m₀ hm₀

/-- A record written back with the configuration inputs it had; the output wires do not matter. -/
theorem of_setMotor {k : Nat} {m m' : Motor} (hm : s.motors[k]? = some m) (hcfg : m'.cfg = m.cfg)
    (r : Option Response) : SameConstants s { s.setMotor k m' with resp := r } where
  par := rfl
  cfgs := by
    obtain ⟨hk, rfl⟩ := List.getElem?_eq_some_iff.1 hm
    change (s.motors.set k m').map Motor.cfg = s.motors.map Motor.cfg
    rw [List.map_set, hcfg, ← List.getElem_map Motor.cfg, List.set_getElem_self]
    simpa using hk

end SameConstants

/-- R26: no operation on a slot writes its configuration inputs. -/
theorem SlotEffect.cfg_eq {p : Params} {slot : Byte} {i : Instr} {m m' : Motor} (h : SlotEffect p slot m i m') :
    m'.cfg = m.cfg := by
  cases h <;> rfl

theorem exec_sameConstants {i : Instr} {s t : State} (h : exec i s = .next t) : SameConstants s t := by
  rcases exec_effect h with ⟨r, rfl⟩ | ⟨slot, m, m', r, -, hm, rfl, heff⟩ |
    ⟨rxId, data, k, m, m', r, -, -, hm, rfl, hcfg, -⟩
  · exact .of_motors_eq rfl rfl
  · exact .of_setMotor hm heff.cfg_eq r
  · exact .of_setMotor hm hcfg r

theorem rejectWord_sameConstants (e : DecodeError) (s : State) : SameConstants s (rejectWord e s) := by
  cases e <;> exact .of_motors_eq rfl rfl

/-- A step releases `rst`, or it changes neither the parameters nor the configuration inputs. -/
theorem step_releases_or_sameConstants {s t : State} (h : step s = .next t) :
    (∃ cfgs rest, s.inputs = .releaseReset cfgs :: rest ∧ t = { s with inputs := rest }.releaseReset cfgs) ∨
    SameConstants s t := by
  have taken (rest : List Event) (txFail : Bool) : SameConstants s (takeTransaction s rest txFail) :=
    .of_motors_eq rfl rfl
  rcases step_cases h with ⟨-, rfl⟩ | ⟨rest, -, rfl⟩ | hrelease | ⟨w, f, rest, -, -, rfl⟩ |
    ⟨w, f, rest, e, -, -, -, rfl⟩ | ⟨w, f, rest, i, -, -, -, hexec⟩
  · exact .inr (.of_motors_eq rfl rfl)
  · exact .inr (.of_motors_eq rfl rfl)
  · exact .inl hrelease
  · exact .inr (.of_motors_eq rfl rfl)
  · exact .inr ((taken rest f).trans (rejectWord_sameConstants e _))
  · exact .inr ((taken rest f).trans (exec_sameConstants hexec))

/-- Settles O55: of the constants, a release writes the configuration inputs only, and any other step none. -/
theorem parametersAndConfigurationAreConstant : Obligations.ParametersAndConfigurationAreConstant := by
  intro s t h
  rcases step_releases_or_sameConstants h with ⟨cfgs, rest, hin, rfl⟩ | hsame
  · exact ⟨rfl, releaseReset_nmotor _ _, fun _ => ⟨cfgs, rest, hin⟩, fun _ hno => absurd hin (hno cfgs rest)⟩
  · exact ⟨hsame.par, hsame.nmotor, fun hne => absurd hsame.cfgs hne, fun hs _ => hsame.legal hs⟩

end Sys2Proof.Machine
end

section
/-! SUPPORT. What a step does with a word that names an operation (20_memory.md R63), and the mode `CTRL` is read in
(30_encoding.md R93 (a)). -/

namespace Sys2Proof.Machine

/-- R63: the step of an accepted transaction is the operation its word names, run in the state that has taken it. -/
theorem step_eq_exec {s : State} {w : PortWord} {txFail : Bool} {rest : List Event} {i : Instr}
    (hin : s.inputs = .transaction w txFail :: rest) (hrst : s.rst = false)
    (hdec : decode (portMode s w) w = .instr i) : step s = exec i (takeTransaction s rest txFail) := by
  have hfetch : fetch s = .run i (takeTransaction s rest txFail) := by simp [fetch, hin, hrst, hdec]
  rw [step, hfetch]

/-- R93 (a): a slot that is there gives a command its mode. -/
theorem portMode_cmd {s : State} {c : Command} {m : Motor} (hm : s.motors[c.slot.toNat]? = some m) :
    portMode s (.cmd c) = m.mode := by
  simp [portMode, hm]

/-- R72: the one select code of the four `CTRL` operations. -/
theorem decode_ctrl (mode : Mode) {c : Command} (hop : c.op = 0x08) :
    decode mode (.cmd c) = .instr (ctrlInstr mode c.slot) := by
  simp [decode, decodeCommand, hop]

/-- Settles O1: a step runs what its word names; `CTRL` names the operation of its slot's mode. -/
theorem stepRunsTheDecodedOperation : Obligations.StepRunsTheDecodedOperation := by
  refine ⟨fun s w txFail rest i => step_eq_exec, fun s c m => portMode_cmd, ?_⟩
  intro s c txFail rest m hin hrst hm hop
  have hdec : decode (portMode s (.cmd c)) (.cmd c) = .instr (ctrlInstr m.mode c.slot) := by
    rw [portMode_cmd hm, decode_ctrl _ hop]
  rw [step_eq_exec hin hrst hdec]
  cases m.mode <;> rfl

end Sys2Proof.Machine
end

section
/-! SUPPORT. The wires of the ports and the decoder (30_encoding.md R70 to R72, R88, R93): a port word is read back from
its wires, an operation from its port word, and whatever is decoded has its class and fits its mode. -/

namespace Sys2Proof
open BitVec

/-! ## Words on wires (R11; log 11) -/

theorem Payload.ofBits_toBits (p : Payload) : Payload.ofBits p.toBits = p := by
  simp (disch := decide) only [Payload.ofBits, Payload.toBits, extractLsb'_append_eq_of_le,
    extractLsb'_append_eq_of_add_le, extractLsb'_eq_self, Nat.reduceSub]

theorem Command.ofBits_toBits (c : Command) : Command.ofBits c.toBits = c := by
  simp (disch := decide) only [Command.ofBits, Command.toBits, extractLsb'_append_eq_of_le,
    extractLsb'_append_eq_of_add_le, extractLsb'_eq_self, Nat.reduceSub]

theorem RxFrame.ofBits_toBits (f : RxFrame) : RxFrame.ofBits f.toBits = f := by
  simp (disch := decide) only [RxFrame.ofBits, RxFrame.toBits, extractLsb'_append_eq_of_le,
    extractLsb'_append_eq_of_add_le, extractLsb'_eq_self, Nat.reduceSub, Payload.ofBits_toBits]

theorem PortWord.ofBits_toBits (w : PortWord) : PortWord.ofBits w.toBits = w := by
  cases w with
  | cmd c => exact congrArg PortWord.cmd c.ofBits_toBits
  | rx f => exact congrArg PortWord.rx f.ofBits_toBits

/-! ## Operations and port words (R72, R88) -/

/-- Every row of the table is read back from its port word. -/
theorem decode_encode {i : Instr} {mode : Mode} (hclass : i.classMatches = true) (hfits : i.fitsMode mode = true) :
    decode mode (encode i) = .instr i := by
  open Laws.PortRoundTrip in
  have row : Statement i := by
    cases i with
    | qenc value lo hi bits => exact qenc value lo hi bits
    | qdec raw lo hi bits => exact qdec raw lo hi bits
    | setmode slot code => exact setmode slot code
    | settgt slot pos vel kp kd torque current => exact settgt slot pos vel kp kd torque current
    | ctrlMit slot => exact ctrlMit slot
    | ctrlPos slot => exact ctrlPos slot
    | ctrlSpd slot => exact ctrlSpd slot
    | ctrlPsc slot => exact ctrlPsc slot
    | clrerr slot => exact clrerr slot
    | enable slot => exact enable slot
    | disable slot => exact disable slot
    | savezero slot => exact savezero slot
    | regrd slot rid => exact regrd slot rid
    | regwr slot rid data => exact regwr slot rid data
    | regsave slot => exact regsave slot
    | scanstart slot => exact scanstart slot
    | rxFb rxId data => exact rxFb rxId data
    | rxRsp rxId data => exact rxRsp rxId data
  exact row mode hclass hfits

/-- Settles O5: the wires give the port word back, and the port word the operation. -/
theorem portWiresRoundTrip : Obligations.PortWiresRoundTrip := by
  intro i mode hclass hfits
  rw [PortWord.ofBits_toBits]
  exact decode_encode hclass hfits

/-! ## What the decoder answers (R72, R93) -/

/-- An answer that is an operation has the class its constructor names and fits the mode it was read in. -/
def Decoded.Fits (mode : Mode) : Decoded → Prop
  | .instr i => i.classMatches = true ∧ i.fitsMode mode = true
  | .rejected _ => True

/-- One select code of the decoder's chain: what it answers fits, and what the codes after it answer. -/
theorem Decoded.Fits.ite {mode : Mode} {code : Prop} [Decidable code] {d d' : Decoded} (hd : d.Fits mode)
    (hd' : d'.Fits mode) : (if code then d else d').Fits mode :=
  Machine.ite_elim (Decoded.Fits mode) hd hd'

theorem ctrlInstr_fits (mode : Mode) (slot : Byte) : (Decoded.instr (ctrlInstr mode slot)).Fits mode := by
  cases mode <;> exact ⟨rfl, rfl⟩

/-- R93 (a): of the thirteen select codes, in the order of the chain, `CTRL` alone looks at the mode. -/
theorem decodeCommand_fits (mode : Mode) (c : Command) : (decodeCommand mode c).Fits mode :=
  .ite ⟨rfl, rfl⟩ <| .ite ⟨rfl, rfl⟩ <| .ite ⟨rfl, rfl⟩ <| .ite ⟨rfl, rfl⟩ <| .ite (ctrlInstr_fits mode c.slot) <|
    .ite ⟨rfl, rfl⟩ <| .ite ⟨rfl, rfl⟩ <| .ite ⟨rfl, rfl⟩ <| .ite ⟨rfl, rfl⟩ <| .ite ⟨rfl, rfl⟩ <|
    .ite ⟨rfl, rfl⟩ <| .ite ⟨rfl, rfl⟩ <| .ite ⟨rfl, rfl⟩ trivial

/-- R93 (b): byte 2 of a frame picks the operation of its class. -/
theorem decodeFrame_fits (mode : Mode) (f : RxFrame) : (decodeFrame f).Fits mode := by
  unfold decodeFrame
  split_ifs with hlen htag
  · exact ⟨htag, rfl⟩
  · exact ⟨by simpa [Instr.classMatches, Payload.hasReadTag, isReadResponse] using htag, rfl⟩
  · trivial

theorem decode_fits (mode : Mode) (w : PortWord) : (decode mode w).Fits mode := by
  cases w with
  | cmd c => exact decodeCommand_fits mode c
  | rx f => exact decodeFrame_fits mode f

/-- Settles O6: what is decoded fits, so its own port word gives it back. -/
theorem decodingIsCanonical : Obligations.DecodingIsCanonical := by
  intro mode w i h
  obtain ⟨hclass, hfits⟩ : (Decoded.instr i).Fits mode := h ▸ decode_fits mode w
  exact ⟨hclass, hfits, decode_encode hclass hfits⟩

/-- Settles O7: each word is a closed term, which the decoder evaluates. -/
theorem tableWordsNameTheirRows : Obligations.TableWordsNameTheirRows := by
  unfold Obligations.TableWordsNameTheirRows
  decide

end Sys2Proof
end

section
/-! SUPPORT. Illegal commands (30_encoding.md R89): what each of them decodes to, and that it is refused. -/

namespace Sys2Proof.Machine

/-! ## Words that name no operation, and operations that name a slot -/

/-- The step of a transaction whose word names no operation (R89 (a), R194). -/
theorem step_eq_rejectWord {s : State} {w : PortWord} {txFail : Bool} {rest : List Event} {e : DecodeError}
    (hin : s.inputs = .transaction w txFail :: rest) (hrst : s.rst = false)
    (hdec : decode (portMode s w) w = .rejected e) : step s = .next (rejectWord e (takeTransaction s rest txFail)) := by
  have hfetch : fetch s = .quiet (rejectWord e (takeTransaction s rest txFail)) := by simp [fetch, hin, hrst, hdec]
  rw [step, hfetch]

/-- The codes R89 (a) lists are those that R72 does not assign. -/
theorem mem_unassignedOps_iff : ∀ op : BitVec 5, op ∈ unassignedOps ↔
    op ∉ [0x01, 0x02, 0x04, 0x05, 0x08, 0x0B, 0x0C, 0x0D, 0x0E, 0x10, 0x11, 0x12, 0x13] := by
  decide

theorem decodeCommand_unassigned (mode : Mode) {c : Command} (hop : c.op ∈ unassignedOps) :
    decodeCommand mode c = .rejected (.unassignedOp c.op) := by
  have hcodes := (mem_unassignedOps_iff c.op).1 hop
  simp only [List.mem_cons, List.not_mem_nil, or_false, not_or] at hcodes
  simp only [decodeCommand, hcodes, if_false]

theorem decodeCommand_qenc (mode : Mode) {c : Command} (hop : c.op = 0x01) :
    decodeCommand mode c = .instr (.qenc c.a0 c.a1 c.a2 (lowByte c.a3)) := by
  simp [decodeCommand, hop]

theorem decodeCommand_qdec (mode : Mode) {c : Command} (hop : c.op = 0x02) :
    decodeCommand mode c = .instr (.qdec c.a0 c.a1 c.a2 (lowByte c.a3)) := by
  simp [decodeCommand, hop]

theorem decodeCommand_setmode (mode : Mode) {c : Command} (hop : c.op = 0x04) :
    decodeCommand mode c = .instr (.setmode c.slot (lowByte c.a0)) := by
  simp [decodeCommand, hop]

/-- Every assigned code but those of `QENC` and `QDEC` names the slot of its word (R51). -/
theorem decodeCommand_names_slot (mode : Mode) {c : Command} (hop : c.op ∉ unassignedOps) (hqenc : c.op ≠ 0x01)
    (hqdec : c.op ≠ 0x02) : ∃ i, decodeCommand mode c = .instr i ∧ slotOperand i = some c.slot := by
  rw [mem_unassignedOps_iff, not_not] at hop
  simp only [List.mem_cons, List.not_mem_nil, or_false, hqenc, hqdec, false_or] at hop
  rcases hop with hop | hop | hop | hop | hop | hop | hop | hop | hop | hop | hop
  case inr.inr.inl => exact ⟨_, decode_ctrl mode hop, by cases mode <;> rfl⟩  -- `CTRL`, in any mode
  all_goals
    rw [decodeCommand, hop]
    exact ⟨_, rfl, rfl⟩

/-! ## What each operation refuses -/

/-- R89 (b): an operation on a slot that is not there. -/
theorem exec_slot_absent {i : Instr} {slot : Byte} {s : State} (hslot : slotOperand i = some slot)
    (habsent : s.motors[slot.toNat]? = none) : exec i s = .next s.refuse := by
  cases i with
  | qenc | qdec | rxFb | rxRsp => cases hslot
  | _ =>
    cases hslot
    simp only [exec, execCtrlMit, execCtrlPos, execCtrlSpd, execCtrlPsc]
    exact onSlot_absent habsent

/-- R89 (c): a code above 3 is no mode's. -/
theorem modeOfCode_illegal {code : Byte} (h : 3 < code.toNat) : modeOfCode code = none := by
  have hne (n : Byte) (hn : n.toNat ≤ 3) : code ≠ n := by rintro rfl; omega
  simp [modeOfCode, hne]

theorem exec_setmode_illegal {slot code : Byte} {s : State} (h : 3 < code.toNat) :
    exec (.setmode slot code) s = .next s.refuse := by
  cases hslot : s.motors[slot.toNat]? with
  | none => exact exec_slot_absent rfl hslot
  | some m => rw [exec, execSetmode, onSlot_present hslot, modeOfCode_illegal h]

/-- R89 (d): the widths that are refused. -/
theorem illegalWidth_iff {bits : Byte} : illegalWidth bits = true ↔ bits.toNat = 0 ∨ 16 < bits.toNat := by
  simp [illegalWidth]

theorem exec_qenc_illegal {value lo hi : F32} {bits : Byte} {s : State} (h : illegalWidth bits = true) :
    exec (.qenc value lo hi bits) s = .next s.refuse := by
  simp [exec, execQenc, h]

/-- R89 (d), (e): a width or a raw value that `QDEC` refuses. -/
theorem exec_qdec_illegal {raw : Word} {lo hi : F32} {bits : Byte} {s : State}
    (h : illegalWidth bits = true ∨ maxCode bits < raw.toNat) : exec (.qdec raw lo hi bits) s = .next s.refuse := by
  rcases h with hwidth | hraw
  · simp [exec, execQdec, hwidth]
  · simp [exec, execQdec, hraw]

/-! ## Illegal commands -/

/-- R89 (b) to (e): an illegal command whose code is assigned names an operation that refuses. -/
theorem illegal_assigned_refuses (mode : Mode) {s : State} {c : Command} (h : IllegalCommand s c)
    (hop : c.op ∉ unassignedOps) : ∃ i, decodeCommand mode c = .instr i ∧ exec i s = .next s.refuse := by
  rcases h with hun | ⟨-, hqenc, hqdec, hslot⟩ | ⟨hset, hcode⟩ | ⟨hqenc | hqdec, hwidth⟩ | ⟨hqdec, hraw⟩
  · exact absurd hun hop
  · obtain ⟨i, hdec, hi⟩ := decodeCommand_names_slot mode hop hqenc hqdec
    exact ⟨i, hdec, exec_slot_absent hi (List.getElem?_eq_none hslot)⟩
  · exact ⟨_, decodeCommand_setmode mode hset, exec_setmode_illegal hcode⟩
  · exact ⟨_, decodeCommand_qenc mode hqenc, exec_qenc_illegal (illegalWidth_iff.2 hwidth)⟩
  · exact ⟨_, decodeCommand_qdec mode hqdec, exec_qdec_illegal (.inl (illegalWidth_iff.2 hwidth))⟩
  · exact ⟨_, decodeCommand_qdec mode hqdec, exec_qdec_illegal (.inr hraw)⟩

/-- Settles O2: the word names no operation, or one that refuses; both leave the refusal's response. -/
theorem illegalCommandsAreRefused : Obligations.IllegalCommandsAreRefused := by
  intro s c txFail rest hin hrst hill
  by_cases hop : c.op ∈ unassignedOps
  · exact step_eq_rejectWord hin hrst (decodeCommand_unassigned _ hop)
  · obtain ⟨i, hdec, hexec⟩ :=
      illegal_assigned_refuses (portMode s (.cmd c)) (s := takeTransaction s rest txFail) hill hop
    rw [step_eq_exec hin hrst hdec]
    exact hexec

end Sys2Proof.Machine
end

section
/-! SUPPORT. The range of a `QENC` code (40_codec.md R100). -/

namespace Sys2Proof.Machine

/-- R100: a code is at most `N`, above the range, below it and inside it. -/
theorem quantEncode_le_maxCode (value lo hi : F32) (bits : Byte) : (quantEncode value lo hi bits).1 ≤ maxCode bits := by
  cases habove : aboveRange value lo hi with
  | true => exact (quantEncode_above habove).le
  | false =>
    cases hbelow : belowRange value lo hi with
    | true => exact quantEncode_below hbelow ▸ Nat.zero_le _
    | false => exact quantEncode_inside habove hbelow ▸ satTrunc_le _ _

/-- Settles O14: `N` is below `2^bits`. -/
theorem qencCodeFitsItsField : Obligations.QencCodeFitsItsField := by
  intro value lo hi bits
  exact (quantEncode_le_maxCode value lo hi bits).trans_lt (Nat.pred_lt (Nat.two_pow_pos _).ne')

end Sys2Proof.Machine
end

section
/-! SUPPORT. The frame an operation presents (30_encoding.md R83, R84): its length, its destination, and that an operation
presents one only for a slot that is there. -/

namespace Sys2Proof.Machine

/-! ## The frame on the TX port -/

/-- The frame that the last step left on the TX port, if any. -/
def State.presented (s : State) : Option Frame := s.resp.bind Response.frame

theorem presented_of_resp {t : State} {r : Response} {f : Frame} (hr : t.resp = some r) (hf : r.frame = some f) :
    t.presented = some f := by
  rw [State.presented, hr, Option.bind_some, hf]

/-! ## What a frame can be -/

/-- R83: 8 bytes, or 4 with the other four driven 0. -/
inductive FrameShape : BitVec 4 → Payload → Prop where
  | full (data : Payload) : FrameShape 8 data
  | short (b0 b1 b2 b3 : Byte) : FrameShape 4 (shortPayload b0 b1 b2 b3)

/-- R84: the operations whose frames go to `MGMT_ID`, those of the register protocol and the RX operations. -/
def usesMgmtId : Instr → Bool
  | .regrd .. | .regwr .. | .regsave _ | .scanstart _ | .rxFb .. | .rxRsp .. => true
  | .qenc .. | .qdec .. | .setmode .. | .settgt .. | .ctrlMit _ | .ctrlPos _ | .ctrlSpd _ | .ctrlPsc _
  | .clrerr _ | .enable _ | .disable _ | .savezero _ => false

theorem usesMgmtId_iff {i : Instr} : usesMgmtId i = true ↔ (receivedId i).isSome ∨
    ∃ slot, (∃ rid, i = .regrd slot rid) ∨ (∃ rid data, i = .regwr slot rid data) ∨ i = .regsave slot ∨
      i = .scanstart slot := by
  cases i <;> simp [usesMgmtId, receivedId]

/-- A frame of the slot with record `m`, on its control path or on the management path. -/
inductive SlotFrame (p : Params) (m : Motor) : (mgmt : Bool) → Frame → Prop where
  | control {len : BitVec 4} {data : Payload} (shape : FrameShape len data) :
      SlotFrame p m false (modeFrame p m len data)
  | management {len : BitVec 4} {data : Payload} (shape : FrameShape len data) :
      SlotFrame p m true (mgmtFrame p len data)

theorem FrameShape.length {len : BitVec 4} {data : Payload} (h : FrameShape len data) :
    len = 8 ∨ (len = 4 ∧ data.b4 = 0x00 ∧ data.b5 = 0x00 ∧ data.b6 = 0x00 ∧ data.b7 = 0x00) := by
  cases h with
  | full => exact .inl rfl
  | short => exact .inr ⟨rfl, rfl, rfl, rfl, rfl⟩

theorem SlotFrame.shape {p : Params} {m : Motor} {mgmt : Bool} {f : Frame} (h : SlotFrame p m mgmt f) :
    FrameShape f.len f.data := by
  cases h <;> assumption

theorem SlotFrame.id_eq {p : Params} {m : Motor} {mgmt : Bool} {f : Frame} (h : SlotFrame p m mgmt f) :
    f.id = p.mgmtId ∨ f.id = m.cfg.id + modeOffset p m.mode := by
  cases h with
  | control => exact .inr rfl
  | management => exact .inl rfl

/-- R8 (b): where no control id collides with `MGMT_ID`, a frame goes there exactly on the management path. -/
theorem SlotFrame.id_eq_mgmtId_iff {s : State} {m : Motor} {mgmt : Bool} {f : Frame} (h : SlotFrame s.par m mgmt f)
    (hm : m ∈ s.motors) (hids : s.IdsLegal) : f.id = s.par.mgmtId ↔ mgmt = true := by
  cases h with
  | control => simpa [modeFrame] using hids m hm m.mode
  | management => simp [mgmtFrame]

theorem readRequest_slotFrame (p : Params) (m : Motor) (e : RegEntry) : SlotFrame p m true (readRequest p m e) :=
  .management (.short ..)

/-! ## The frame of each family of operations -/

/-- A command on a slot presents a frame only by running on a record that is there. -/
theorem onSlot_presented {slot : Byte} {s t : State} {run : Nat → Motor → Answer} {f : Frame}
    (h : onSlot slot s run = .next t) (hf : t.presented = some f) :
    ∃ m, s.motors[slot.toNat]? = some m ∧ run slot.toNat m = .next t := by
  rcases onSlot_cases h with hrun | ⟨-, rfl⟩
  · exact hrun
  · cases hf

/-- R192: the frame of a control command is that of the slot's mode. -/
theorem dispatchControl_presented {slot : Byte} {s t : State} {f : Frame} (h : dispatchControl slot s = .next t)
    (hf : t.presented = some f) : ∃ m, s.motors[slot.toNat]? = some m ∧ SlotFrame s.par m false f := by
  obtain ⟨m, hm, hrun⟩ := onSlot_presented h hf
  refine ⟨m, hm, ?_⟩
  have control {off : Id16} {len : BitVec 4} {data : Payload} (hoff : modeOffset s.par m.mode = off)
      (shape : FrameShape len data) : SlotFrame s.par m false ⟨dest m.cfg.id off, len, data⟩ :=
    hoff ▸ .control shape
  split at hrun <;> rename_i hmode <;> cases hrun <;> cases hf
  · exact control (by rw [hmode]; rfl) (.full _)
  · exact control (by rw [hmode]; rfl) (.full _)
  · exact control (by rw [hmode]; rfl) (.short ..)
  · exact control (by rw [hmode]; rfl) (.full _)

/-- R178 to R180: the register stage presents only the request of the state it advances to. -/
theorem registerStage_presented {k : Nat} {m : Motor} {rid : Byte} {val : Word} {s t : State} {f : Frame}
    (h : registerStage k m rid val s = .next t) (hf : t.presented = some f) : SlotFrame s.par m true f := by
  rcases registerStage_cases h with ⟨-, rfl⟩ | ⟨e, -, -, rfl⟩ | ⟨e, -, -, haccept⟩
  · cases hf
  · cases hf
  · rcases acceptResponse_cases haccept with ⟨next, -, -, rfl⟩ | ⟨-, rfl⟩
    · cases hf; exact readRequest_slotFrame s.par m next
    · cases hf

/-- R193: an RX transaction presents a frame of the slot that owns the received id only. -/
theorem receiveFrame_presented {rxId : Id16} {data : Payload} {s t : State} {f : Frame}
    (h : receiveFrame rxId data s = .next t) (hf : t.presented = some f) :
    ∃ k m, rxSlot s rxId = some k ∧ s.motors[k]? = some m ∧ SlotFrame s.par m true f := by
  rcases receiveFrame_cases h with ⟨-, rfl⟩ | ⟨k, m, -, -, -, rfl⟩ | ⟨k, m, hk, hm, -, hstage⟩
  · cases hf
  · cases hf
  · cases registerStage_presented hstage hf with
    | management shape => exact ⟨k, m, hk, hm, .management shape⟩

/-- R105, R111: the codec presents no frame. -/
theorem execQenc_presented {value lo hi : F32} {bits : Byte} {s t : State} (h : execQenc value lo hi bits s = .next t) :
    t.presented = none := by
  unfold execQenc at h
  split_ifs at h <;> cases h <;> rfl

theorem execQdec_presented {raw : Word} {lo hi : F32} {bits : Byte} {s t : State}
    (h : execQdec raw lo hi bits s = .next t) : t.presented = none := by
  unfold execQdec at h
  split_ifs at h <;> cases h <;> rfl

theorem execSetmode_presented {slot code : Byte} {s t : State} (h : execSetmode slot code s = .next t) :
    t.presented = none := by
  rcases onSlot_cases h with ⟨m, -, hrun⟩ | ⟨-, rfl⟩
  · split at hrun <;> cases hrun <;> rfl
  · rfl

/-- Everything an operation can present: a frame of the slot it names, on the path the operation uses. -/
theorem exec_presented {i : Instr} {s t : State} {f : Frame} (h : exec i s = .next t) (hf : t.presented = some f) :
    ∃ k m, namedSlot s i = some k ∧ s.motors[k]? = some m ∧ SlotFrame s.par m (usesMgmtId i) f := by
  cases i <;> simp only [exec] at h
  case qenc => cases (execQenc_presented h).symm.trans hf
  case qdec => cases (execQdec_presented h).symm.trans hf
  case setmode => cases (execSetmode_presented h).symm.trans hf
  case rxFb | rxRsp => all_goals exact receiveFrame_presented h hf
  case ctrlMit slot | ctrlPos slot | ctrlSpd slot | ctrlPsc slot =>
    all_goals
      obtain ⟨m, hm, hframe⟩ := dispatchControl_presented h hf
      exact ⟨slot.toNat, m, rfl, hm, hframe⟩
  all_goals
    obtain ⟨m, hm, hrun⟩ := onSlot_presented h hf
    refine ⟨_, m, rfl, hm, ?_⟩
  case settgt => cases hrun; cases hf
  case clrerr | enable | disable | savezero => all_goals cases hrun; cases hf; exact .control (.full _)
  case regrd | regsave => all_goals cases hrun; cases hf; exact .management (.short ..)
  case regwr => cases hrun; cases hf; exact .management (.full _)
  case scanstart =>
    split at hrun
    · cases hrun; cases hf; exact readRequest_slotFrame ..
    · cases hrun

/-! ## The obligations on frames -/

/-- Settles O44: the frame is of one of the two shapes of R83. -/
theorem framesHaveTheirLengths : Obligations.FramesHaveTheirLengths := by
  intro i s t r f h hr hf
  obtain ⟨k, m, -, -, hframe⟩ := exec_presented h (presented_of_resp hr hf)
  exact hframe.shape.length

/-- Settles O45: the frame is on the control path of the slot the operation names, or on the management path. -/
theorem framesGoToTheirDestinations : Obligations.FramesGoToTheirDestinations := by
  intro i s t r f h hr hf
  obtain ⟨k, m, hk, hm, hframe⟩ := exec_presented h (presented_of_resp hr hf)
  refine ⟨k, m, hk, hm, hframe.id_eq, fun hids => ?_⟩
  exact (hframe.id_eq_mgmtId_iff (List.mem_of_getElem? hm) hids).trans usesMgmtId_iff

end Sys2Proof.Machine
end

section
/-! SUPPORT. `QENC` and `QDEC` as operations (40_codec.md R105, R111): their words, their results and flags, and the operands
that decide the result without arithmetic: NaNs, values outside the range, reversed limits (R102, R107, R108, R113). -/

namespace Sys2Proof.Machine

/-! ## The two operations -/

/-- The widths R89 (d) leaves are not refused. -/
theorem illegalWidth_eq_false {bits : Byte} (h1 : 1 ≤ bits.toNat) (h16 : bits.toNat ≤ 16) :
    illegalWidth bits = false := by
  rw [Bool.eq_false_iff, ne_eq, illegalWidth_iff]
  omega

theorem exec_qenc_legal (value lo hi : F32) {bits : Byte} (s : State) (h1 : 1 ≤ bits.toNat) (h16 : bits.toNat ≤ 16) :
    exec (.qenc value lo hi bits) s = .next (s.complete (some (BitVec.ofNat 32 (quantEncode value lo hi bits).1))
      { ovf := (quantEncode value lo hi bits).2 } none) := by
  simp [exec, execQenc, illegalWidth_eq_false h1 h16]

theorem exec_qdec_legal {raw : Word} (lo hi : F32) {bits : Byte} (s : State) (h1 : 1 ≤ bits.toNat)
    (h16 : bits.toNat ≤ 16) (hraw : raw.toNat ≤ maxCode bits) :
    exec (.qdec raw lo hi bits) s = .next (s.complete (some (quantDecode raw lo hi bits)) {} none) := by
  simp [exec, execQdec, illegalWidth_eq_false h1 h16, hraw.not_gt]

/-- The status word of an operation that can only overflow (R210). -/
theorem statusWord_ovf (o : Bool) : statusWord { ovf := o } = if o then 0x02 else 0x00 := by
  cases o <;> rfl

/-- R105, R107: the code, with the ranges written as comparisons. -/
theorem quantEncode_fst (value lo hi : F32) (bits : Byte) : (quantEncode value lo hi bits).1 =
    if fle lo hi ∧ flt hi value then maxCode bits else if fle lo hi ∧ flt value lo then 0
    else (satTrunc (quantQuotient value lo hi (maxCode bits)) (maxCode bits)).1 := by
  simp only [quantEncode, rangeCode, aboveRange, belowRange, Bool.and_eq_true]

/-- R105: the flag is clear for a value in the range whose quotient was not clipped. -/
theorem quantEncode_snd_eq_false_iff {value lo hi : F32} {bits : Byte} : (quantEncode value lo hi bits).2 = false ↔
    (fle lo value = true ∧ fle value hi = true) ∧
      (satTrunc (quantQuotient value lo hi (maxCode bits)) (maxCode bits)).2 = false := by
  simp only [quantEncode, Bool.or_eq_false_iff, Bool.not_eq_false', Bool.and_eq_true]

/-- Settles O12: the operation completes with the code and the flag of `quantEncode`. -/
theorem qencComputesItsRule : Obligations.QencComputesItsRule := by
  refine ⟨fun mode _ _ _ _ _ _ _ => decodeCommand_qenc mode rfl, ?_⟩
  intro value lo hi bits s h1 h16 n t3 q code
  have hcode : (quantEncode value lo hi bits).1 = code := quantEncode_fst value lo hi bits
  have hflag : (quantEncode value lo hi bits).2 = false ↔ (fle lo value = true ∧ fle value hi = true) ∧ q.2 = false :=
    quantEncode_snd_eq_false_iff
  rw [exec_qenc_legal value lo hi s h1 h16, hcode, State.complete, statusWord_ovf]
  simp only [← hflag]
  cases (quantEncode value lo hi bits).2 <;> rfl

theorem isNaN_asNaN (x : F32) : isNaN (asNaN x) = true := by
  unfold asNaN
  split
  · assumption
  · decide

theorem quantDecode_of_some {raw : Word} {lo hi u3 : F32} {bits : Byte} (h : quantValue raw lo hi bits = some u3) :
    quantDecode raw lo hi bits = u3 := by
  rw [quantDecode, h, Option.getD_some]

/-- R102: the NaN that stands for no value, whatever its free pattern. -/
theorem isNaN_quantDecode_of_none {raw : Word} {lo hi : F32} {bits : Byte} (h : quantValue raw lo hi bits = none) :
    isNaN (quantDecode raw lo hi bits) = true := by
  rw [quantDecode, h, Option.getD_none]
  exact isNaN_asNaN _

/-- Settles O13: the operation completes with the value of `quantDecode`. -/
theorem qdecComputesItsRule : Obligations.QdecComputesItsRule := by
  refine ⟨fun mode _ _ _ _ _ _ _ => decodeCommand_qdec mode rfl, ?_⟩
  intro raw lo hi bits s h1 h16 hraw
  refine ⟨quantDecode raw lo hi bits, exec_qdec_legal lo hi s h1 h16 hraw, ?_⟩
  split
  next u3 h => exact quantDecode_of_some h
  next h => exact isNaN_quantDecode_of_none h

/-! ## Comparisons (R14) -/

theorem fle_iff {a b : F32} : fle a b = true ↔ isNaN a = false ∧ isNaN b = false ∧ fscaled a ≤ fscaled b := by
  simp [fle, and_assoc]

theorem flt_iff {a b : F32} : flt a b = true ↔ isNaN a = false ∧ isNaN b = false ∧ fscaled a < fscaled b := by
  simp [flt, and_assoc]

theorem fle_eq_false_of_isNaN {a b : F32} (h : isNaN a = true ∨ isNaN b = true) : fle a b = false := by
  rcases h with h | h <;> simp [fle, h]

theorem flt_eq_false_of_isNaN {a b : F32} (h : isNaN a = true ∨ isNaN b = true) : flt a b = false := by
  rcases h with h | h <;> simp [flt, h]

theorem fle_eq_false_of_flt {a b : F32} (h : flt a b = true) : fle b a = false := by
  obtain ⟨-, -, hlt⟩ := flt_iff.1 h
  simp [fle, hlt]

/-! ## What is flagged, and the codes outside the range -/

/-- R105: a value that is not between the limits is flagged. -/
theorem quantEncode_flagged {value lo hi : F32} (bits : Byte) (h : fle lo value = false ∨ fle value hi = false) :
    (quantEncode value lo hi bits).2 = true := by
  rcases h with h | h <;> simp [quantEncode, h]

/-- R107: above limits that are not reversed. -/
theorem quantEncode_of_flt_value {value lo hi : F32} (bits : Byte) (hlim : fle lo hi = true) (h : flt hi value = true) :
    quantEncode value lo hi bits = (maxCode bits, true) :=
  Prod.ext (quantEncode_above (by simp [aboveRange, hlim, h])) (quantEncode_flagged bits (.inr (fle_eq_false_of_flt h)))

/-- R107: below limits that are not reversed. -/
theorem quantEncode_of_value_flt {value lo hi : F32} (bits : Byte) (hlim : fle lo hi = true) (h : flt value lo = true) :
    quantEncode value lo hi bits = (0, true) :=
  Prod.ext (quantEncode_below (by simp [belowRange, hlim, h])) (quantEncode_flagged bits (.inl (fle_eq_false_of_flt h)))

/-- R15, R105: a quotient that is a NaN gives code 0 and the flag. -/
theorem quantEncode_of_quotient_none {value lo hi : F32} {bits : Byte} (ha : aboveRange value lo hi = false)
    (hq : quantQuotient value lo hi (maxCode bits) = none) : quantEncode value lo hi bits = (0, true) := by
  simp [quantEncode, rangeCode, ha, hq, satTrunc]

/-- R102: a NaN operand makes the quotient a NaN. -/
theorem quantQuotient_of_isNaN {value lo hi : F32} (n : Nat)
    (h : isNaN value = true ∨ isNaN lo = true ∨ isNaN hi = true) : quantQuotient value lo hi n = none := by
  have hsub {a b : F32} (h : isNaN a = true ∨ isNaN b = true) : fsub a b = none := (operations_of_isNaN h).2.1
  rcases h with h | h | h
  · simp [quantQuotient, hsub (.inl h)]
  · simp [quantQuotient, hsub (.inr h)]
  · simp [quantQuotient, hsub (.inl h)]

/-- R102: a NaN operand gives code 0 and the flag: it lies in no range. -/
theorem quantEncode_of_isNaN {value lo hi : F32} (bits : Byte)
    (h : isNaN value = true ∨ isNaN lo = true ∨ isNaN hi = true) : quantEncode value lo hi bits = (0, true) := by
  refine quantEncode_of_quotient_none ?_ (quantQuotient_of_isNaN _ h)
  rcases h with h | h | h
  · simp [aboveRange, flt_eq_false_of_isNaN (.inr h)]
  · simp [aboveRange, fle_eq_false_of_isNaN (.inl h)]
  · simp [aboveRange, fle_eq_false_of_isNaN (.inr h)]

/-- Settles O18: below, above, and a NaN. -/
theorem qencOutOfRangeIsFlagged : Obligations.QencOutOfRangeIsFlagged :=
  fun _ _ _ bits _ _ hlim => ⟨quantEncode_of_value_flt bits hlim, quantEncode_of_flt_value bits hlim,
    fun h => quantEncode_of_isNaN bits (.inl h)⟩

/-- Settles O21: the span is a NaN, so the result is. -/
theorem qdecOfNaNLimitsIsNaN : Obligations.QdecOfNaNLimitsIsNaN := by
  intro raw lo hi bits h
  have hspan : fsub hi lo = none := (operations_of_isNaN h.symm).2.1
  exact isNaN_quantDecode_of_none (by rw [quantValue, hspan, Option.bind_none])

end Sys2Proof.Machine
end

section
/-! SUPPORT. Rounding is monotone, and how much it can add (00_scope.md R14): the facts behind the range and the monotonicity
of `QENC` (40_codec.md R106, R109). An infinity has the magnitude
`2^277`, above all finite ones, so that they hold of it too. -/

namespace Sys2Proof.Machine

/-! ## Rounding is monotone -/

section
variable {n m d : Nat}

theorem divNearestEven_mono (hd : 0 < d) (h : n ≤ m) : divNearestEven n d ≤ divNearestEven m d := by
  rcases h.eq_or_lt with rfl | hlt
  · exact le_rfl
  · by_contra hgt
    have hmul : (divNearestEven m d + 1) * d ≤ divNearestEven n d * d := Nat.mul_le_mul_right d (by omega)
    have := divNearestEven_spec (n := n) hd
    have := divNearestEven_spec (n := m) hd
    rw [Nat.succ_mul] at hmul
    omega

theorem roundShift_mono (h : n ≤ m) : roundShift n d ≤ roundShift m d := by
  have hlog : (n / d).log2 ≤ (m / d).log2 := by
    rw [Nat.log2_eq_log_two, Nat.log2_eq_log_two]
    exact Nat.log_mono_right (Nat.div_le_div_right h)
  unfold roundShift
  omega

/-- At one place the significand decides; at a higher place even the least one is no less than a carry. -/
theorem roundPattern_mono (hd : 0 < d) (h : n ≤ m) : roundPattern n d ≤ roundPattern m d := by
  rw [roundPattern_eq, roundPattern_eq]
  refine min_le_min_right _ ?_
  rcases (roundShift_mono (d := d) h).eq_or_lt with heq | hlt
  · have hsig : roundSig n d ≤ roundSig m d := by
      unfold roundSig
      rw [heq]
      exact divNearestEven_mono (ulp_pos hd) h
    omega
  · have := roundSig_le (n := n) hd
    have := le_roundSig (n := m) hd (by omega)
    omega

end

/-! ## The magnitude of a rounding -/

theorem fexp_lt (x : F32) : fexp x < 2 ^ 8 := (x.extractLsb' 23 8).isLt

theorem ffrac_lt (x : F32) : ffrac x < 2 ^ 23 := (x.extractLsb' 0 23).isLt

/-- Patterns are ordered as their magnitudes are. -/
theorem fmag_withSign_mono (a b : Bool) {p q : Nat} (h : p ≤ q) (hq : q < 2 ^ 31) :
    fmag (withSign a p) ≤ fmag (withSign b q) := by
  rw [fmag, fmag, fexp_withSign a (by omega), fexp_withSign b hq, ffrac_withSign a (by omega), ffrac_withSign b hq]
  rcases (Nat.div_le_div_right (c := 2 ^ 23) h).eq_or_lt with heq | hlt
  · have hfrac : p % 2 ^ 23 ≤ q % 2 ^ 23 := by omega
    rw [heq]
    split
    · exact hfrac
    · exact Nat.mul_le_mul_right _ (by omega)
  · have hpow : 2 ^ (p / 2 ^ 23) ≤ 2 ^ (q / 2 ^ 23 - 1) := Nat.pow_le_pow_right (by decide) (by omega)
    have hq0 : q / 2 ^ 23 ≠ 0 := by omega
    rw [if_neg hq0]
    refine le_trans ?_ (Nat.mul_le_mul_right _ (Nat.le_add_right (2 ^ 23) (q % 2 ^ 23)))
    refine le_trans ?_ (Nat.mul_le_mul_left (2 ^ 23) hpow)
    split
    case isTrue h0 =>
      rw [h0]
      omega
    case isFalse h0 =>
      calc (2 ^ 23 + p % 2 ^ 23) * 2 ^ (p / 2 ^ 23 - 1) ≤ 2 ^ 24 * 2 ^ (p / 2 ^ 23 - 1) :=
            Nat.mul_le_mul_right _ (by omega)
        _ = 2 ^ 23 * 2 ^ (p / 2 ^ 23 - 1 + 1) := by rw [pow_succ]; ring
        _ = 2 ^ 23 * 2 ^ (p / 2 ^ 23) := by rw [Nat.sub_add_cancel (Nat.pos_of_ne_zero h0)]

/-- The magnitude of an infinity, `2^277`. -/
def infMag : Nat := 2 ^ 23 * 2 ^ 254

theorem isFinite_iff_fmag_lt {x : F32} : isFinite x = true ↔ fmag x < infMag := by
  have hexp := fexp_lt x
  have hfrac := ffrac_lt x
  have hfin : isFinite x = true ↔ fexp x ≠ 255 := by simp [isFinite]
  rw [hfin, fmag, infMag]
  by_cases he : fexp x = 255
  · simp only [he, ne_eq, not_true_eq_false, false_iff, not_lt, OfNat.ofNat_ne_zero, if_false]
    exact Nat.mul_le_mul_right _ (Nat.le_add_right _ _)
  · split
    · omega
    · have hpow : 2 ^ (fexp x - 1) ≤ 2 ^ 253 := Nat.pow_le_pow_right (by decide) (by omega)
      have hmul := Nat.mul_lt_mul_of_lt_of_le (show 2 ^ 23 + ffrac x < 2 ^ 24 by omega) hpow (by decide)
      omega

/-- The magnitude of `n / d` units rounded to binary32. -/
def roundMag (n d : Nat) : Nat := fmag (withSign false (roundPattern n d))

theorem Rounded.fmag_eq {r : F32} {neg : Bool} {n d : Nat} (h : Rounded r neg n d) : fmag r = roundMag n d := by
  have hp := (roundPattern_le n d).trans_lt (by decide : 0x7F800000 < 2 ^ 31)
  rw [h.eq]
  exact le_antisymm (fmag_withSign_mono _ _ le_rfl hp) (fmag_withSign_mono _ _ le_rfl hp)

theorem roundMag_mono {n m d : Nat} (hd : 0 < d) (h : n ≤ m) : roundMag n d ≤ roundMag m d :=
  fmag_withSign_mono _ _ (roundPattern_mono hd h) ((roundPattern_le m d).trans_lt (by decide))

theorem roundMag_le_infMag (n d : Nat) : roundMag n d ≤ infMag := by
  have hinf : fmag (withSign false 0x7F800000) = infMag := by decide
  exact hinf ▸ fmag_withSign_mono _ _ (roundPattern_le n d) (by decide)

theorem roundPattern_zero (d : Nat) : roundPattern 0 d = 0 := by
  simp [roundPattern, roundShift, divNearestEven]

theorem roundMag_zero (d : Nat) : roundMag 0 d = 0 := by
  rw [roundMag, roundPattern_zero]
  rfl

/-- A magnitude of a unit or more is not rounded to zero. -/
theorem roundMag_pos {n : Nat} (h : 0 < n) : 0 < roundMag n 1 := by
  have hone : roundMag 1 1 = 1 := by decide
  exact hone.symm.le.trans (roundMag_mono Nat.one_pos h)

/-- Rounding adds at most one part in `2^24`, or half a unit. -/
theorem roundMag_mul_le {n d : Nat} (hd : 0 < d) :
    2 ^ 24 * (roundMag n d * d) ≤ (2 ^ 24 + 1) * n + 2 ^ 23 * d := by
  rcases (roundPattern_le n d).eq_or_lt with hover | hfin
  · have hlimit := (roundPattern_overflows_iff hd).1 hover
    have hmul : roundMag n d * d ≤ infMag * d := Nat.mul_le_mul_right d (roundMag_le_infMag n d)
    unfold infMag at hmul
    omega
  · obtain ⟨hle, -, -⟩ := divNearestEven_spec (n := n) (ulp_pos (n := n) hd)
    have hmag : roundMag n d * d = roundSig n d * (d * 2 ^ roundShift n d) := by
      rw [roundMag, fmag_round false hd hfin]
      ring
    rw [← roundSig, ← hmag] at hle
    by_cases hk : roundShift n d = 0
    · rw [hk, pow_zero, Nat.mul_one] at hle
      omega
    · have := le_of_roundShift hd hk
      omega

/-! ## Values that are not negative -/

/-- `r` is a value of magnitude `m` that is not below zero; a zero may have either sign. -/
structure HasMag (r : F32) (m : Nat) : Prop where
  not_nan : isNaN r = false
  fmag_eq : fmag r = m
  zero_of_fsign : fsign r = true → m = 0

namespace HasMag
variable {r : F32} {m : Nat}

theorem fscaled_eq (h : HasMag r m) : fscaled r = m := by
  rw [fscaled_eq_signed, h.fmag_eq]
  cases hsign : fsign r with
  | false => rfl
  | true => rw [h.zero_of_fsign hsign, signed_zero, Nat.cast_zero]

theorem isFinite_iff (h : HasMag r m) : isFinite r = true ↔ m < infMag := by
  rw [isFinite_iff_fmag_lt, h.fmag_eq]

theorem of_infinity : HasMag (infinity false) infMag :=
  ⟨by decide, by decide, fun h => absurd (fsign_infinity false) (by simp [h])⟩

theorem isInf_iff (h : HasMag r m) : isInf r = true ↔ infMag ≤ m := by
  rw [← not_lt, ← h.isFinite_iff, Sys2Proof.Machine.isFinite_iff, h.not_nan]
  simp

theorem fsign_eq_false (h : HasMag r m) (hm : 0 < m) : fsign r = false :=
  Bool.eq_false_iff.2 fun hsign => hm.ne' (h.zero_of_fsign hsign)

theorem ftrunc_eq (h : HasMag r m) : ftrunc r = (m / 2 ^ 149 : Nat) := by
  rw [ftrunc, h.fscaled_eq, Int.tdiv_eq_ediv_of_nonneg (Int.natCast_nonneg m)]
  norm_cast

/-- R15: an infinity, whose magnitude is `2^128` whole ones, is above any `N`. -/
theorem satTrunc_eq {n : Nat} (h : HasMag r m) (hn : n < 2 ^ 128) :
    satTrunc (some r) n = (min (m / 2 ^ 149) n, decide (n < m / 2 ^ 149)) := by
  simp only [satTrunc, h.not_nan, Bool.false_eq_true, if_false, satTruncValue, h.ftrunc_eq]
  cases hinf : isInf r with
  | true =>
    have hm := h.isInf_iff.1 hinf
    unfold infMag at hm
    have hlarge : n < m / 2 ^ 149 := by omega
    simp only [h.fsign_eq_false (by omega), Bool.false_eq_true, if_true, if_false, hlarge, decide_true,
      min_eq_right hlarge.le]
  | false =>
    simp only [Bool.false_eq_true, if_false, Nat.cast_lt, (Int.natCast_nonneg _).not_gt, Int.toNat_natCast]
    by_cases hlarge : n < m / 2 ^ 149
    · simp only [hlarge, if_true, decide_true, min_eq_right hlarge.le]
    · simp only [hlarge, if_false, decide_false, min_eq_left (not_lt.1 hlarge)]

end HasMag

theorem Rounded.hasMag {r : F32} {neg : Bool} {n d : Nat} (h : Rounded r neg n d) (hneg : neg = true → n = 0) :
    HasMag r (roundMag n d) where
  not_nan := h.isNaN_eq_false
  fmag_eq := h.fmag_eq
  zero_of_fsign hsign := by rw [hneg (h.fsign_eq.symm.trans hsign), roundMag_zero]

theorem u2f_hasMag {n : Nat} (hn : n < 2 ^ 24) : HasMag (u2f n) (n * 2 ^ 149) where
  not_nan := (u2f_rounded n).isNaN_eq_false
  fmag_eq := by
    have h := fscaled_u2f hn
    rw [fscaled_eq_signed, (u2f_rounded n).fsign_eq] at h
    exact Int.ofNat_inj.1 h
  zero_of_fsign h := absurd (u2f_rounded n).fsign_eq (by simp [h])

/-! ## The operations on values that are not negative -/

theorem fsub_hasMag {a b : F32} (ha : isFinite a = true) (hb : isFinite b = true) (h : fscaled b ≤ fscaled a) :
    ∃ r, fsub a b = some r ∧ HasMag r (roundMag (fscaled a - fscaled b).toNat 1) := by
  obtain ⟨r, neg, hr, hround, hsigned⟩ := fsub_rounded ha hb
  have habs : (fscaled a - fscaled b).natAbs = (fscaled a - fscaled b).toNat := by omega
  refine ⟨r, hr, habs ▸ hround.hasMag fun hneg => ?_⟩
  by_contra h0
  have hlt : fscaled a - fscaled b < 0 := of_decide_eq_true ((sign_of_eq_signed hsigned h0).symm.trans hneg)
  omega

/-- A difference above zero is rounded to a value above zero. -/
theorem fsub_pos {a b : F32} (ha : isFinite a = true) (hb : isFinite b = true) (h : fscaled b < fscaled a) :
    ∃ r, fsub a b = some r ∧ isNaN r = false ∧ fsign r = false ∧ fscaled r ≠ 0 := by
  obtain ⟨r, hr, hmag⟩ := fsub_hasMag ha hb h.le
  have hpos : 0 < roundMag (fscaled a - fscaled b).toNat 1 := roundMag_pos (by omega)
  refine ⟨r, hr, hmag.not_nan, hmag.fsign_eq_false hpos, ?_⟩
  rw [hmag.fscaled_eq]
  omega

theorem fmul_hasMag {a b : F32} {m k : Nat} (ha : HasMag a m) (hb : HasMag b k) (hm : m < infMag)
    (hk : k < infMag) : ∃ r, fmul a b = some r ∧ HasMag r (roundMag (m * k) (2 ^ 149)) := by
  obtain ⟨r, hr, hround⟩ := fmul_rounded (ha.isFinite_iff.2 hm) (hb.isFinite_iff.2 hk)
  rw [ha.fmag_eq, hb.fmag_eq] at hround
  refine ⟨r, hr, hround.hasMag fun hneg => ?_⟩
  cases hsign : fsign a with
  | true => rw [ha.zero_of_fsign hsign, Nat.zero_mul]
  | false => rw [hb.zero_of_fsign (by simpa [hsign] using hneg), Nat.mul_zero]

/-- The magnitude of a quotient by a finite divisor: an infinity stays one. -/
def divMag (m k : Nat) : Nat := if m < infMag then roundMag (m * 2 ^ 149) k else infMag

theorem divMag_mono {m m' k : Nat} (hk : 0 < k) (h : m ≤ m') : divMag m k ≤ divMag m' k := by
  unfold divMag
  by_cases hm' : m' < infMag
  · rw [if_pos (h.trans_lt hm'), if_pos hm']
    exact roundMag_mono hk (Nat.mul_le_mul_right _ h)
  · rw [if_neg hm']
    split
    · exact roundMag_le_infMag _ _
    · exact le_rfl

theorem fdiv_hasMag {a b : F32} {m k : Nat} (ha : HasMag a m) (hb : HasMag b k) (hk0 : 0 < k) (hk : k < infMag) :
    ∃ r, fdiv a b = some r ∧ HasMag r (divMag m k) := by
  have hfin := hb.isFinite_iff.2 hk
  have hsign := hb.fsign_eq_false hk0
  unfold divMag
  split
  case isTrue hm =>
    have hb0 : fscaled b ≠ 0 := by rw [hb.fscaled_eq]; omega
    obtain ⟨r, hr, hround⟩ := fdiv_rounded (ha.isFinite_iff.2 hm) hfin hb0
    rw [ha.fmag_eq, hb.fmag_eq, hsign, Bool.bne_false] at hround
    exact ⟨r, hr, hround.hasMag fun hneg => by rw [ha.zero_of_fsign hneg, Nat.zero_mul]⟩
  case isFalse hm =>
    have hinf := ha.isInf_iff.2 (not_lt.1 hm)
    have hsign' := ha.fsign_eq_false (lt_of_lt_of_le (by decide) (not_lt.1 hm))
    obtain ⟨hbnan, hbinf⟩ := isFinite_iff.1 hfin
    exact ⟨_, by simp [fdiv, ha.not_nan, hinf, hbnan, hbinf, hsign, hsign'], .of_infinity⟩

end Sys2Proof.Machine
end

section
/-! SUPPORT. The codec at a zero (40_codec.md R106 at the lower end, R108, R112): what the operations give for a zero
operand, and that a value of the format is its own rounding. -/

namespace Sys2Proof.Machine

/-! ## Zeros -/

section
variable (neg : Bool)

theorem isFinite_zero : isFinite (withSign neg 0) = true := isFinite_withSign neg (by decide)

theorem fsign_zero : fsign (withSign neg 0) = neg := fsign_withSign neg (by decide)

theorem fscaled_zero : fscaled (withSign neg 0) = 0 := by cases neg <;> decide

/-- R15: a zero of either sign truncates to 0 and is not clipped. -/
theorem satTrunc_zero (n : Nat) : satTrunc (some (withSign neg 0)) n = (0, false) := by
  obtain ⟨hnan, hinf⟩ := isFinite_iff.1 (isFinite_zero neg)
  simp [satTrunc, satTruncValue, ftrunc, hnan, hinf, fscaled_zero]

end

theorem Rounded.eq_zero {r : F32} {neg : Bool} {d : Nat} (h : Rounded r neg 0 d) : r = withSign neg 0 :=
  h.eq.trans (by rw [roundPattern_zero])

/-! ## The operations on a zero (R14) -/

section
variable {a b : F32} (ha : isFinite a = true) (hb : isFinite b = true)
include ha hb

/-- Equal values have the difference zero. -/
theorem fsub_of_fscaled_eq (h : fscaled a = fscaled b) : ∃ neg, fsub a b = some (withSign neg 0) := by
  obtain ⟨r, neg, hr, hround, -⟩ := fsub_rounded ha hb
  rw [h, sub_self, Int.natAbs_zero] at hround
  exact ⟨neg, hround.eq_zero ▸ hr⟩

/-- A zero times a finite value. -/
theorem fmul_of_zero (h : fscaled a = 0) : fmul a b = some (withSign (fsign a != fsign b) 0) := by
  obtain ⟨r, hr, hround⟩ := fmul_rounded ha hb
  rw [fmag_eq_zero.2 h, Nat.zero_mul] at hround
  exact hround.eq_zero ▸ hr

end

/-- A zero divided by a value that is not zero, an infinity included. -/
theorem fdiv_of_zero {a b : F32} (ha : isFinite a = true) (h : fscaled a = 0) (hb : isNaN b = false)
    (hb0 : fscaled b ≠ 0) : fdiv a b = some (withSign (fsign a != fsign b) 0) := by
  cases hinf : isInf b with
  | true =>
    obtain ⟨ha, ha'⟩ := isFinite_iff.1 ha
    simp [fdiv, ha, ha', hb, hinf]
  | false =>
    obtain ⟨r, hr, hround⟩ := fdiv_rounded ha (isFinite_iff.2 ⟨hb, hinf⟩) hb0
    rw [fmag_eq_zero.2 h, Nat.zero_mul] at hround
    exact hround.eq_zero ▸ hr

/-! ## A value is its own rounding -/

/-- The place of the last significant bit of a finite magnitude. -/
theorem roundShift_fmag (x : F32) : roundShift (fmag x) 1 = fexp x - 1 := by
  have hfrac := ffrac_lt x
  rw [roundShift, Nat.div_one, fmag]
  split
  case isTrue he =>
    rw [he]
    rcases Nat.eq_zero_or_pos (ffrac x) with h0 | hpos
    · simp [h0]
    · have := (Nat.log2_lt hpos.ne').2 hfrac
      omega
  case isFalse he =>
    have hlog : ((2 ^ 23 + ffrac x) * 2 ^ (fexp x - 1)).log2 = 23 + (fexp x - 1) := by
      rw [Nat.log2_eq_iff (by positivity), pow_add, pow_add, pow_add, pow_one]
      constructor
      · exact Nat.mul_le_mul_right _ (by omega)
      · calc (2 ^ 23 + ffrac x) * 2 ^ (fexp x - 1) < 2 ^ 24 * 2 ^ (fexp x - 1) :=
              Nat.mul_lt_mul_of_pos_right (by omega) (Nat.two_pow_pos _)
          _ = _ := by ring
    omega

theorem roundPattern_fmag {x : F32} (hx : isFinite x = true) :
    roundPattern (fmag x) 1 = fexp x * 2 ^ 23 + ffrac x := by
  have hexp := fexp_lt x
  have hfrac := ffrac_lt x
  have hfin : fexp x ≠ 255 := by simpa [isFinite] using hx
  rw [roundPattern, roundShift_fmag, Nat.one_mul]
  by_cases he : fexp x = 0
  · have hsig := divNearestEven_mul (ffrac x) Nat.one_pos
    rw [Nat.mul_one] at hsig
    simp only [fmag, he, if_true, Nat.zero_sub, pow_zero, hsig]
    omega
  · have hsig := divNearestEven_mul (2 ^ 23 + ffrac x) (Nat.two_pow_pos (fexp x - 1))
    simp only [fmag, he, if_false, hsig]
    omega

/-- A pattern is its sign, its exponent and its fraction. -/
theorem withSign_fields (x : F32) : withSign (fsign x) (fexp x * 2 ^ 23 + ffrac x) = x := by
  have hx := x.isLt
  have hexp := fexp_lt x
  have hfrac := ffrac_lt x
  apply BitVec.eq_of_toNat_eq
  rw [withSign_toNat _ (by omega), fsign_eq, fexp_eq, ffrac_eq]
  simp only [decide_eq_true_eq]
  split <;> omega

theorem withSign_roundPattern_fmag {x : F32} (hx : isFinite x = true) :
    withSign (fsign x) (roundPattern (fmag x) 1) = x := by
  rw [roundPattern_fmag hx, withSign_fields]

/-- `+0.0` added to a value is the value, but `+0.0` for `-0.0`. -/
theorem fadd_zero_left {b : F32} (hb : isFinite b = true) :
    fadd (withSign false 0) b = some (if b = 0x80000000 then 0x00000000 else b) := by
  have hb' := withSign_roundPattern_fmag hb
  rw [fadd_of_finite (isFinite_zero false) hb, addFinite, fscaled_zero, zero_add, fsign_zero, Bool.false_and]
  by_cases h : fscaled b = 0
  · rw [fmag_eq_zero.2 h, roundPattern_zero] at hb'
    rw [if_pos h, ← hb']
    cases fsign b <;> rfl
  · have hne : b ≠ 0x80000000 := by
      rintro rfl
      exact h (by decide)
    have hmag : (fscaled b).natAbs = fmag b := natAbs_signed ..
    rw [if_neg h, if_neg hne, hmag, ← sign_of_eq_signed (fscaled_eq_signed b) (fmag_eq_zero.not.2 h), hb']

/-! ## `N` -/

theorem maxCode_lt {bits : Byte} (h16 : bits.toNat ≤ 16) : maxCode bits < 2 ^ 16 :=
  (Nat.pred_lt (Nat.two_pow_pos _).ne').trans_le (Nat.pow_le_pow_right (by decide) h16)

/-- R103: so small that `u2f(N)` is exact. -/
theorem maxCode_lt_two_pow_24 {bits : Byte} (h16 : bits.toNat ≤ 16) : maxCode bits < 2 ^ 24 :=
  (maxCode_lt h16).trans (by decide)

theorem maxCode_pos {bits : Byte} (h1 : 1 ≤ bits.toNat) : 0 < maxCode bits := by
  have hpow : 2 ^ 1 ≤ 2 ^ bits.toNat := Nat.pow_le_pow_right (by decide) h1
  unfold maxCode
  omega

/-! ## `QENC` and `QDEC` at a zero -/

/-- R105: where the difference is a zero, the quotient is a zero divided by the span. -/
theorem quantQuotient_of_eq {value lo hi span : F32} {n : Nat} (hn : n < 2 ^ 24) (hvalue : isFinite value = true)
    (hlo : isFinite lo = true) (heq : fscaled value = fscaled lo) (hspan : fsub hi lo = some span) :
    ∃ neg, quantQuotient value lo hi n = fdiv (withSign neg 0) span := by
  obtain ⟨neg, ht1⟩ := fsub_of_fscaled_eq hvalue hlo heq
  have ht2 := fmul_of_zero (isFinite_zero neg) (u2f_finite hn) (fscaled_zero neg)
  exact ⟨_, by rw [quantQuotient, ht1, Option.bind_some, ht2, Option.bind_some, hspan, Option.bind_some]⟩

/-- Settles O17: the difference is a zero, so the quotient is one, and it lies in the range. -/
theorem qencOfTheMinimumIsZero : Obligations.QencOfTheMinimumIsZero := by
  intro lo hi bits _ h16 hlo hhi hlt
  obtain ⟨hnlo, hnhi, hlt⟩ := flt_iff.1 hlt
  obtain ⟨span, hspan, hnspan, -, hspan0⟩ := fsub_pos hhi hlo hlt
  obtain ⟨neg, hq⟩ := quantQuotient_of_eq (maxCode_lt_two_pow_24 h16) hlo hlo rfl hspan
  have hzero := fdiv_of_zero (isFinite_zero neg) (fscaled_zero neg) hnspan hspan0
  have hlo_lo : fle lo lo = true := fle_iff.2 ⟨hnlo, hnlo, le_rfl⟩
  have hlo_hi : fle lo hi = true := fle_iff.2 ⟨hnlo, hnhi, hlt.le⟩
  obtain ⟨habove, hbelow⟩ := inside_of_fle hlo_lo hlo_hi
  have hsat := satTrunc_zero (fsign (withSign neg 0) != fsign span) (maxCode bits)
  rw [← hzero, ← hq] at hsat
  refine Prod.ext ?_ (quantEncode_snd_eq_false_iff.2 ⟨⟨hlo_lo, hlo_hi⟩, by rw [hsat]⟩)
  rw [quantEncode_inside habove hbelow, hsat]

/-- R108: a value equal to both limits: `0/0`. -/
theorem quantEncode_of_all_eq {value lim : F32} {bits : Byte} (h16 : bits.toNat ≤ 16) (hvalue : isFinite value = true)
    (hlim : isFinite lim = true) (heq : fscaled value = fscaled lim) : quantEncode value lim lim bits = (0, true) := by
  obtain ⟨spanNeg, hspan⟩ := fsub_of_fscaled_eq hlim hlim rfl
  obtain ⟨neg, hq⟩ := quantQuotient_of_eq (maxCode_lt_two_pow_24 h16) hvalue hlim heq hspan
  refine quantEncode_of_quotient_none (by simp [aboveRange, flt, heq]) (hq.trans ?_)
  rw [fdiv_zero (isFinite_zero neg) (isFinite_zero spanNeg) (fscaled_zero spanNeg), if_pos (fscaled_zero neg)]

/-- Settles O19: a NaN limit; reversed limits hold no value; equal limits hold one, whose quotient is `0/0`. -/
theorem qencOnDegenerateRanges : Obligations.QencOnDegenerateRanges := by
  refine ⟨fun value lo hi bits h => quantEncode_of_isNaN bits (.inr h), ?_, ?_⟩
  · intro value lo hi bits hrev
    obtain ⟨-, -, hrev⟩ := flt_iff.1 hrev
    refine quantEncode_flagged bits ?_
    by_contra hin
    simp only [not_or, Bool.not_eq_false, fle_iff] at hin
    omega
  · intro value lim bits _ h16 hvalue hlim
    have hnlim := (isFinite_iff.1 hlim).1
    have hrefl : fle lim lim = true := fle_iff.2 ⟨hnlim, hnlim, le_rfl⟩
    refine ⟨fun hle => ?_, quantEncode_of_flt_value bits hrefl⟩
    obtain ⟨hnvalue, -, hle⟩ := fle_iff.1 hle
    rcases hle.lt_or_eq with hlt | heq
    · exact quantEncode_of_value_flt bits hrefl (flt_iff.2 ⟨hnvalue, hnlim, hlt⟩)
    · exact quantEncode_of_all_eq h16 hvalue hlim heq

/-- Settles O20: each step keeps `+0.0` until `min` is added to it. -/
theorem qdecOfZeroIsTheMinimum : Obligations.QdecOfZeroIsTheMinimum := by
  intro lo hi span bits h1 h16 hlo hhi hlt hspan hfin
  obtain ⟨-, -, hlt⟩ := flt_iff.1 hlt
  obtain ⟨span', hspan', -, hsign, -⟩ := fsub_pos hhi hlo hlt
  obtain rfl : span' = span := Option.some.inj (hspan'.symm.trans hspan)
  have hraw : u2f (0 : Word).toNat = withSign false 0 := by decide
  have hu1 : fmul (withSign false 0) span' = some (withSign false 0) := by
    rw [fmul_of_zero (isFinite_zero false) hfin (fscaled_zero false), fsign_zero, hsign, bne_self_eq_false]
  have hu2 : fdiv (withSign false 0) (u2f (maxCode bits)) = some (withSign false 0) := by
    rw [fdiv_of_zero (isFinite_zero false) (fscaled_zero false) (u2f_rounded _).isNaN_eq_false ?_, fsign_zero,
      (u2f_rounded _).fsign_eq, bne_self_eq_false]
    have := maxCode_pos h1
    rw [fscaled_u2f (maxCode_lt_two_pow_24 h16)]
    positivity
  refine quantDecode_of_some ?_
  rw [quantValue, hspan, Option.bind_some, hraw, hu1, Option.bind_some, hu2, Option.bind_some, fadd_zero_left hlo]

end Sys2Proof.Machine
end

section
/-! SUPPORT. `QENC` inside the range (40_codec.md R106, R109): the magnitude of its quotient as a function of those of the
difference and of the span, which grows with the difference and stays below `N + 1`. -/

namespace Sys2Proof.Machine

/-! ## The magnitude of the quotient -/

/-- The magnitude of `t3` of R105, from that of `value - min` and that of a finite span, both rounded. -/
def quotientMag (diff span n : Nat) : Nat := divMag (roundMag (diff * (n * 2 ^ 149)) (2 ^ 149)) span

/-- R109: rounding is monotone. -/
theorem quotientMag_mono {diff diff' span n : Nat} (hspan : 0 < span) (h : diff ≤ diff') :
    quotientMag diff span n ≤ quotientMag diff' span n :=
  divMag_mono hspan (roundMag_mono (Nat.two_pow_pos 149) (Nat.mul_le_mul_right _ h))

/-- R106: the two roundings after the subtraction add less than 1 to a code of 16 bits; nothing overflows for a span of
at most `2^101`. -/
theorem quotientMag_lt {diff span n : Nat} (hn : n < 2 ^ 16) (hdiff : diff ≤ span) (hspan : 0 < span)
    (hlarge : span ≤ 2 ^ 250) : quotientMag diff span n < (n + 1) * 2 ^ 149 := by
  have hprod : diff * n ≤ span * n := Nat.mul_le_mul_right n hdiff
  have hbound : span * n ≤ span * (2 ^ 16 - 1) := Nat.mul_le_mul_left span (by omega)
  have ht2 := roundMag_mul_le (n := diff * n * 2 ^ 149) (Nat.two_pow_pos 149)
  rw [quotientMag, ← mul_assoc]
  generalize roundMag (diff * n * 2 ^ 149) (2 ^ 149) = t2 at *
  have hfin : t2 < infMag := by
    unfold infMag
    omega
  rw [divMag, if_pos hfin]
  have ht3 := roundMag_mul_le (n := t2 * 2 ^ 149) hspan
  generalize roundMag (t2 * 2 ^ 149) span = t3 at *
  by_contra hge
  have hmul : (n + 1) * 2 ^ 149 * span ≤ t3 * span := Nat.mul_le_mul_right span (not_lt.1 hge)
  have hexpand : (n + 1) * 2 ^ 149 * span = (span * n + span) * 2 ^ 149 := by ring
  omega

/-- No code of 16 bits is near the magnitude of an infinity. -/
theorem succ_mul_two_pow_le_infMag {n : Nat} (hn : n < 2 ^ 16) : (n + 1) * 2 ^ 149 ≤ infMag := by
  unfold infMag
  omega

/-! ## The code of a value in the range -/

/-- A quotient by an infinity is a NaN or a zero. -/
theorem fdiv_of_isInf (a : F32) {b : F32} (hb : isInf b = true) :
    fdiv a b = none ∨ ∃ neg, fdiv a b = some (withSign neg 0) := by
  have hnan := not_isNaN_of_isInf hb
  cases ha : isNaN a with
  | true => exact .inl (operations_of_isNaN (.inl ha)).2.2.2
  | false =>
    cases ha' : isInf a with
    | true => exact .inl (by simp [fdiv, ha, ha', hnan, hb])
    | false => exact .inr ⟨fsign a != fsign b, by simp [fdiv, ha, ha', hnan, hb]⟩

theorem quantQuotient_of_isInf_span {lo hi span : F32} (value : F32) (n : Nat) (hs : fsub hi lo = some span)
    (hinf : isInf span = true) : quantQuotient value lo hi n = none ∨
      ∃ neg, quantQuotient value lo hi n = some (withSign neg 0) := by
  unfold quantQuotient
  rw [hs]
  cases fsub value lo with
  | none => exact .inl rfl
  | some t1 =>
    rw [Option.bind_some]
    cases fmul t1 (u2f n) with
    | none => exact .inl rfl
    | some t2 => exact fdiv_of_isInf t2 hinf

/-- `min <= value <= max`, `min < max`, all finite. -/
structure InRange (value lo hi : F32) : Prop where
  value_finite : isFinite value = true
  lo_finite : isFinite lo = true
  hi_finite : isFinite hi = true
  lo_le : fscaled lo ≤ fscaled value
  le_hi : fscaled value ≤ fscaled hi
  lo_lt_hi : fscaled lo < fscaled hi

/-- What lies between finite values is finite. -/
theorem isFinite_of_between {x lo hi : F32} (hlo : isFinite lo = true) (hhi : isFinite hi = true)
    (hl : fscaled lo ≤ fscaled x) (hh : fscaled x ≤ fscaled hi) : isFinite x = true := by
  have habs (y : F32) : (fscaled y).natAbs = fmag y := natAbs_signed ..
  rw [isFinite_iff_fmag_lt, ← habs] at hlo hhi ⊢
  omega

/-- The magnitude of the rounded difference `a - b`. -/
def diffMag (a b : F32) : Nat := roundMag (fscaled a - fscaled b).toNat 1

theorem diffMag_mono {a a' : F32} (b : F32) (h : fscaled a ≤ fscaled a') : diffMag a b ≤ diffMag a' b :=
  roundMag_mono Nat.one_pos (by omega)

/-- A difference of at most `2^100` is rounded to no more than `2^101`. -/
theorem diffMag_le {a b : F32} (h : fscaled a - fscaled b ≤ 2 ^ 249) : diffMag a b ≤ 2 ^ 250 := by
  have := roundMag_mul_le (n := (fscaled a - fscaled b).toNat) Nat.one_pos
  unfold diffMag
  omega

namespace InRange
variable {value lo hi : F32} (h : InRange value lo hi)
include h

theorem fle_lo : fle lo value = true :=
  fle_iff.2 ⟨(isFinite_iff.1 h.lo_finite).1, (isFinite_iff.1 h.value_finite).1, h.lo_le⟩

theorem fle_hi : fle value hi = true :=
  fle_iff.2 ⟨(isFinite_iff.1 h.value_finite).1, (isFinite_iff.1 h.hi_finite).1, h.le_hi⟩

theorem quantEncode_fst (bits : Byte) : (quantEncode value lo hi bits).1 =
    (satTrunc (quantQuotient value lo hi (maxCode bits)) (maxCode bits)).1 :=
  quantEncode_inside (inside_of_fle h.fle_lo h.fle_hi).1 (inside_of_fle h.fle_lo h.fle_hi).2

theorem quantEncode_snd (bits : Byte) : (quantEncode value lo hi bits).2 =
    (satTrunc (quantQuotient value lo hi (maxCode bits)) (maxCode bits)).2 := by
  simp [quantEncode, h.fle_lo, h.fle_hi]

theorem span_pos : 0 < diffMag hi lo := roundMag_pos (by have := h.lo_lt_hi; omega)

/-- The quotient where the span is finite: the difference is then finite too. -/
theorem quotient_hasMag {n : Nat} (hn : n < 2 ^ 24) (hspan : diffMag hi lo < infMag) :
    ∃ t3, quantQuotient value lo hi n = some t3 ∧ HasMag t3 (quotientMag (diffMag value lo) (diffMag hi lo) n) := by
  have hdiff := (diffMag_mono lo h.le_hi).trans_lt hspan
  obtain ⟨t1, ht1, hmag1⟩ := fsub_hasMag h.value_finite h.lo_finite h.lo_le
  obtain ⟨t2, ht2, hmag2⟩ := fmul_hasMag hmag1 (u2f_hasMag hn) hdiff ((u2f_hasMag hn).isFinite_iff.1 (u2f_finite hn))
  obtain ⟨span, hs, hmagS⟩ := fsub_hasMag h.hi_finite h.lo_finite h.lo_lt_hi.le
  obtain ⟨t3, ht3, hmag3⟩ := fdiv_hasMag hmag2 hmagS h.span_pos hspan
  refine ⟨t3, ?_, hmag3⟩
  rw [quantQuotient, ht1, Option.bind_some, ht2, Option.bind_some, hs, Option.bind_some, ht3]

theorem quantEncode_fst_of_finite_span {bits : Byte} (h16 : bits.toNat ≤ 16) (hspan : diffMag hi lo < infMag) :
    (quantEncode value lo hi bits).1 =
      min (quotientMag (diffMag value lo) (diffMag hi lo) (maxCode bits) / 2 ^ 149) (maxCode bits) := by
  obtain ⟨t3, ht3, hmag⟩ := h.quotient_hasMag (maxCode_lt_two_pow_24 h16) hspan
  rw [h.quantEncode_fst, ht3, hmag.satTrunc_eq ((maxCode_lt h16).trans (by decide))]

/-- Where the span overflows the quotient is a zero or a NaN. -/
theorem quantEncode_fst_of_infinite_span (bits : Byte) (hspan : infMag ≤ diffMag hi lo) :
    (quantEncode value lo hi bits).1 = 0 := by
  obtain ⟨span, hs, hmagS⟩ := fsub_hasMag h.hi_finite h.lo_finite h.lo_lt_hi.le
  have hquot : quantQuotient value lo hi (maxCode bits) = none ∨
      ∃ neg, quantQuotient value lo hi (maxCode bits) = some (withSign neg 0) :=
    quantQuotient_of_isInf_span value _ hs (hmagS.isInf_iff.2 hspan)
  rw [h.quantEncode_fst]
  rcases hquot with hq | ⟨neg, hq⟩
  · rw [hq, satTrunc]
  · rw [hq, satTrunc_zero]

end InRange

/-- Settles O15: the code is the whole part of a quotient below `N + 1`. -/
theorem qencInRangeIsExactTruncation : Obligations.QencInRangeIsExactTruncation := by
  intro value lo hi bits _ h16 hlo hhi hvalue hle hle' hsmall hlarge
  have h : InRange value lo hi := ⟨hvalue, hlo, hhi, (fle_iff.1 hle).2.2, (fle_iff.1 hle').2.2, by omega⟩
  have hspan := diffMag_le hlarge
  obtain ⟨t3, ht3, hmag⟩ := h.quotient_hasMag (maxCode_lt_two_pow_24 h16)
    (hspan.trans_lt (by unfold infMag; omega))
  have hn := maxCode_lt h16
  have hlt := quotientMag_lt hn (diffMag_mono lo h.le_hi) h.span_pos hspan
  have hcode := h.quantEncode_fst bits
  have hflag := h.quantEncode_snd bits
  generalize quotientMag (diffMag value lo) (diffMag hi lo) (maxCode bits) = m at hmag hlt
  have hwhole : m / 2 ^ 149 ≤ maxCode bits := by omega
  have hfin : m < infMag := hlt.trans_le (succ_mul_two_pow_le_infMag hn)
  rw [ht3, hmag.satTrunc_eq (hn.trans (by decide))] at hcode hflag
  refine ⟨hflag.trans (decide_eq_false hwhole.not_gt), t3, ht3, hmag.isFinite_iff.2 hfin, ?_, quantEncode_le_maxCode ..⟩
  rw [hcode, hmag.ftrunc_eq, min_eq_left hwhole]

/-- R109 for two values in the range. -/
theorem quantEncode_mono_inRange {v w lo hi : F32} {bits : Byte} (h16 : bits.toNat ≤ 16) (hv : InRange v lo hi)
    (hw : InRange w lo hi) (hvw : fscaled v ≤ fscaled w) :
    (quantEncode v lo hi bits).1 ≤ (quantEncode w lo hi bits).1 := by
  by_cases hspan : diffMag hi lo < infMag
  · rw [hv.quantEncode_fst_of_finite_span h16 hspan, hw.quantEncode_fst_of_finite_span h16 hspan]
    exact min_le_min_right _ (Nat.div_le_div_right (quotientMag_mono hv.span_pos (diffMag_mono lo hvw)))
  · rw [hv.quantEncode_fst_of_infinite_span bits (not_lt.1 hspan)]
    exact Nat.zero_le _

/-- Settles O16: a value below the range has the least code, one above it the largest; between them the quotient decides. -/
theorem qencIsMonotone : Obligations.QencIsMonotone := by
  intro v w lo hi bits _ h16 hlo hhi hlt hvw
  obtain ⟨hnlo, hnhi, hlt'⟩ := flt_iff.1 hlt
  obtain ⟨hnv, hnw, hvw⟩ := fle_iff.1 hvw
  have hlim : fle lo hi = true := fle_iff.2 ⟨hnlo, hnhi, hlt'.le⟩
  by_cases hbelow : fscaled v < fscaled lo
  · rw [quantEncode_of_value_flt bits hlim (flt_iff.2 ⟨hnv, hnlo, hbelow⟩)]
    exact Nat.zero_le _
  by_cases habove : fscaled hi < fscaled w
  · rw [quantEncode_of_flt_value bits hlim (flt_iff.2 ⟨hnhi, hnw, habove⟩)]
    exact quantEncode_le_maxCode ..
  · have inRange (x : F32) (hlx : fscaled lo ≤ fscaled x) (hxh : fscaled x ≤ fscaled hi) : InRange x lo hi :=
      ⟨isFinite_of_between hlo hhi hlx hxh, hlo, hhi, hlx, hxh, hlt'⟩
    exact quantEncode_mono_inRange h16 (inRange v (by omega) (by omega)) (inRange w (by omega) (by omega)) hvw

end Sys2Proof.Machine
end

section
/-! SUPPORT. The four control frames (41_control_frames.md R120 to R129): their wire formats, the response of an
emitting command, and the one encoder `CTRL` runs (46_registry.md R192). -/

namespace Sys2Proof.Machine

/-! ## Wire formats (30_encoding.md R73, R76) -/

theorem toNat_append_eq_add {v w : Nat} (x : BitVec v) (y : BitVec w) :
    (x ++ y).toNat = x.toNat * 2 ^ w + y.toNat := by
  rw [BitVec.toNat_append, ← Nat.shiftLeft_add_eq_or_of_lt y.isLt, Nat.shiftLeft_eq]

/-- R121: the eight bytes of F-MIT in order are the five fields in order. -/
theorem mitPayload_toBits (p : BitVec 16) (v kp kd t : BitVec 12) :
    (mitPayload p v kp kd t).toBits = p ++ v ++ kp ++ kd ++ t := by
  apply BitVec.eq_of_toNat_eq
  have hp := p.isLt
  have hv := v.isLt
  simp only [Payload.toBits, mitPayload, toNat_append_eq_add, BitVec.extractLsb'_toNat, Nat.shiftRight_eq_div_pow]
  omega

theorem lowByte16_ofNat (n : Nat) : lowByte16 (BitVec.ofNat 16 n) = BitVec.ofNat 8 (n % 256) := by
  apply BitVec.eq_of_toNat_eq
  simp only [lowByte16, BitVec.extractLsb'_toNat, BitVec.toNat_ofNat, Nat.shiftRight_zero]
  omega

theorem highByte16_ofNat (n : Nat) : highByte16 (BitVec.ofNat 16 n) = BitVec.ofNat 8 (n / 256) := by
  apply BitVec.eq_of_toNat_eq
  simp only [highByte16, BitVec.extractLsb'_toNat, BitVec.toNat_ofNat, Nat.shiftRight_eq_div_pow]
  omega

/-! ## The response of an emitting command (R212) -/

theorem emit_eq (s : State) (frame : Frame) (ovf : Bool) : s.emit frame ovf = { s with resp := some ⟨some 0,
    (if ovf then 0x02 else 0x00) + (if s.txFail then 0x04 else 0x00), some frame⟩ } := by
  rw [← statusWord_emit]; rfl

theorem emit_unflagged (s : State) (frame : Frame) :
    s.emit frame = { s with resp := some ⟨some 0, if s.txFail then 0x04 else 0x00, some frame⟩ } := by
  simp [emit_eq]

/-! ## The encoder of a mode (R192) -/

/-- The state after the encoder of a mode has run on a record. -/
def sendControl (m : Motor) (s : State) : Mode → State
  | .mit => sendMit m s
  | .position => sendPos m s
  | .speed => sendSpd m s
  | .positionSpeedCurrent => sendPsc m s

/-- The four `CTRL` operations are one transaction (R95). -/
theorem exec_ctrlInstr (mode : Mode) (slot : Byte) (s : State) :
    exec (ctrlInstr mode slot) s = dispatchControl slot s := by
  cases mode <;> rfl

/-- R192: `CTRL` on a slot that is there runs exactly the encoder of that slot's mode. -/
theorem exec_ctrl {slot : Byte} {s : State} {m : Motor} {mode : Mode} (hm : s.motors[slot.toNat]? = some m)
    (hmode : m.mode = mode) : exec (ctrlInstr mode slot) s = .next (sendControl m s mode) := by
  rw [exec_ctrlInstr, dispatchControl, onSlot_present hm, hmode]
  cases mode <;> rfl

/-! ## The obligations on control frames -/

/-- Settles O24: the encoder of mode `Mit`; its payload read as one number. -/
theorem ctrlMitSendsItsFrame : Obligations.CtrlMitSendsItsFrame := by
  refine ⟨fun _ _ _ _ _ _ _ => decode_ctrl .mit rfl, ?_⟩
  intro slot s m hm hmode p v kp kd t
  have hexec : exec (.ctrlMit slot) s = .next (sendMit m s) := exec_ctrl hm hmode
  refine ⟨(mitFields s.par m.cfg m.tgt).1, mitPayload_toBits .., ?_⟩
  rw [hexec, sendMit, emit_eq]
  rfl

/-- Settles O27: the encoder of mode `PositionSpeedCurrent`; its two u16 fields byte by byte. -/
theorem ctrlPscSendsItsFrame : Obligations.CtrlPscSendsItsFrame := by
  refine ⟨fun _ _ _ _ _ _ _ => decode_ctrl .positionSpeedCurrent rfl, ?_⟩
  intro slot s m hm hmode v i
  have hexec : exec (.ctrlPsc slot) s = .next (sendPsc m s) := exec_ctrl hm hmode
  rw [hexec, sendPsc, emit_eq, ← lowByte16_ofNat, ← highByte16_ofNat, ← lowByte16_ofNat, ← highByte16_ofNat]
  rfl

/-- Settles O25: the encoder of mode `Position`. -/
theorem ctrlPosSendsItsFrame : Obligations.CtrlPosSendsItsFrame := by
  refine ⟨fun _ _ _ _ _ _ _ => decode_ctrl .position rfl, ?_⟩
  intro slot s m hm hmode
  have hexec : exec (.ctrlPos slot) s = .next (sendPos m s) := exec_ctrl hm hmode
  rw [hexec, sendPos, emit_unflagged]
  rfl

/-- Settles O26: the encoder of mode `Speed`. -/
theorem ctrlSpdSendsItsFrame : Obligations.CtrlSpdSendsItsFrame := by
  refine ⟨fun _ _ _ _ _ _ _ => decode_ctrl .speed rfl, ?_⟩
  intro slot s m hm hmode
  have hexec : exec (.ctrlSpd slot) s = .next (sendSpd m s) := exec_ctrl hm hmode
  rw [hexec, sendSpd, emit_unflagged]
  rfl

end Sys2Proof.Machine
end

section
/-! SUPPORT. The four mode commands (42_mode_commands.md R140 to R145): their select codes, what each does on a slot
that is there, and the sentinel frame with its answer. -/

namespace Sys2Proof.Machine

/-! ## The select codes (30_encoding.md R72) -/

theorem decode_clrerr (mode : Mode) {c : Command} (hop : c.op = 0x0B) :
    decode mode (.cmd c) = .instr (.clrerr c.slot) := by
  simp [decode, decodeCommand, hop]

theorem decode_enable (mode : Mode) {c : Command} (hop : c.op = 0x0C) :
    decode mode (.cmd c) = .instr (.enable c.slot) := by
  simp [decode, decodeCommand, hop]

theorem decode_disable (mode : Mode) {c : Command} (hop : c.op = 0x0D) :
    decode mode (.cmd c) = .instr (.disable c.slot) := by
  simp [decode, decodeCommand, hop]

theorem decode_savezero (mode : Mode) {c : Command} (hop : c.op = 0x0E) :
    decode mode (.cmd c) = .instr (.savezero c.slot) := by
  simp [decode, decodeCommand, hop]

/-! ## The sentinel (R140, R141) -/

/-- R140, R141, R212: a sentinel writes the output wires alone, and the transport's answer shows in `tx_err` alone. -/
theorem sendSentinel_eq (c : Byte) (m : Motor) (s : State) :
    sendSentinel c m s = { s with resp := some ⟨some 0, if s.txFail then 0x04 else 0x00,
      some ⟨m.cfg.id + modeOffset s.par m.mode, 8, ⟨0xFF, 0xFF, 0xFF, 0xFF, 0xFF, 0xFF, 0xFF, c⟩⟩⟩ } :=
  emit_unflagged s (modeFrame s.par m 8 (sentinelPayload c))

/-! ## The commands on a slot that is there (R142 to R145) -/

section
variable {slot : Byte} {s : State} {m : Motor}

theorem exec_clrerr (hm : s.motors[slot.toNat]? = some m) :
    exec (.clrerr slot) s = .next (sendSentinel 0xFB m s) := by
  rw [exec, execClrerr, onSlot_present hm]

theorem exec_enable (hm : s.motors[slot.toNat]? = some m) :
    exec (.enable slot) s = .next (sendSentinel 0xFC m s) := by
  rw [exec, execEnable, onSlot_present hm]

/-- R143: the targets are zeroed after the emit, without a look at its answer. -/
theorem exec_disable (hm : s.motors[slot.toNat]? = some m) :
    exec (.disable slot) s = .next ((sendSentinel 0xFD m s).setMotor slot.toNat (m.withTgt Target.zero)) := by
  rw [exec, execDisable, onSlot_present hm]

theorem exec_savezero (hm : s.motors[slot.toNat]? = some m) :
    exec (.savezero slot) s = .next (sendSentinel 0xFE m s) := by
  rw [exec, execSavezero, onSlot_present hm]

end

/-! ## The obligations on mode commands -/

/-- Settles O29: each of the three is `sendSentinel` with its own byte. -/
theorem modeCommandsSendTheirSentinels : Obligations.ModeCommandsSendTheirSentinels := by
  refine ⟨fun mode _ _ _ _ _ _ _ => ⟨decode_enable mode rfl, decode_savezero mode rfl, decode_clrerr mode rfl⟩, ?_⟩
  intro slot s m hm sent
  have sends (c : Byte) : sendSentinel c m s = sent c := sendSentinel_eq c m s
  rw [exec_enable hm, exec_savezero hm, exec_clrerr hm, sends, sends, sends]
  exact ⟨rfl, rfl, rfl⟩

/-- Settles O30: `sendSentinel` leaves the registry, then the slot's record is written with zeroed targets. -/
theorem disableClearsTheTargets : Obligations.DisableClearsTheTargets := by
  refine ⟨fun mode _ _ _ _ _ _ _ => decode_disable mode rfl, ?_⟩
  intro slot s m hm
  rw [exec_disable hm, sendSentinel_eq]
  rfl

end Sys2Proof.Machine
end

section
/-! SUPPORT. The feedback frame (43_feedback.md R151 to R154): its wire format, what the feedback stage cuts from it, and
the RX transaction of an accepted one. -/

namespace Sys2Proof.Machine

/-! ## The wire format (30_encoding.md R81) -/

/-- The seven fields of a feedback frame, most significant bit first, cut into bytes. -/
def feedbackPayload (st ide : BitVec 4) (rp : BitVec 16) (rv rt : BitVec 12) (tm tc : Byte) : Payload where
  b0 := st ++ ide
  b1 := rp.extractLsb' 8 8
  b2 := rp.extractLsb' 0 8
  b3 := rv.extractLsb' 4 8
  b4 := rv.extractLsb' 0 4 ++ rt.extractLsb' 8 4
  b5 := rt.extractLsb' 0 8
  b6 := tm
  b7 := tc

/-- A word is the join of its upper and its lower bits. -/
theorem extractLsb'_append_low {u w : Nat} (x : BitVec (u + w)) : x.extractLsb' w u ++ x.extractLsb' 0 w = x := by
  rw [BitVec.extractLsb'_append_extractLsb'_eq_extractLsb' (by omega), BitVec.extractLsb'_eq_self]

section
variable (st ide : BitVec 4) (rp : BitVec 16) (rv rt : BitVec 12) (tm tc : Byte)

theorem feedbackPayload_toBits :
    (feedbackPayload st ide rp rv rt tm tc).toBits = st ++ ide ++ rp ++ rv ++ rt ++ tm ++ tc := by
  apply BitVec.eq_of_toNat_eq
  have hrp := rp.isLt
  have hrv := rv.isLt
  simp only [Payload.toBits, feedbackPayload, toNat_append_eq_add, BitVec.extractLsb'_toNat,
    Nat.shiftRight_eq_div_pow]
  omega

/-- R81: the payload with the seven fields as its integer view. -/
theorem ofBits_eq_feedbackPayload :
    Payload.ofBits (st ++ ide ++ rp ++ rv ++ rt ++ tm ++ tc) = feedbackPayload st ide rp rv rt tm tc := by
  rw [← feedbackPayload_toBits, Payload.ofBits_toBits]

/-! ## The fields cut from it (R151) -/

@[simp] theorem cutState_feedbackPayload : cutState (feedbackPayload st ide rp rv rt tm tc) = st.setWidth 8 :=
  congrArg (BitVec.setWidth 8) BitVec.extractLsb'_append_eq_left

@[simp] theorem cutIdEcho_feedbackPayload : cutIdEcho (feedbackPayload st ide rp rv rt tm tc) = ide.setWidth 8 :=
  congrArg (BitVec.setWidth 8) BitVec.extractLsb'_append_eq_right

@[simp] theorem cutRawPos_feedbackPayload : cutRawPos (feedbackPayload st ide rp rv rt tm tc) = rp :=
  extractLsb'_append_low (u := 8) (w := 8) rp

/-- R81: byte 4 ends the velocity and begins the torque. -/
@[simp] theorem cutRawVel_feedbackPayload : cutRawVel (feedbackPayload st ide rp rv rt tm tc) = rv := by
  rw [cutRawVel, feedbackPayload, BitVec.extractLsb'_append_eq_left]
  exact extractLsb'_append_low (u := 8) (w := 4) rv

@[simp] theorem cutRawTor_feedbackPayload : cutRawTor (feedbackPayload st ide rp rv rt tm tc) = rt := by
  rw [cutRawTor, feedbackPayload, BitVec.extractLsb'_append_eq_right]
  exact extractLsb'_append_low (u := 4) (w := 8) rt

/-- R151 to R153: the feedback group of a frame written as its fields. -/
theorem feedbackOf_feedbackPayload (cfg : SlotConfig) :
    feedbackOf cfg (feedbackPayload st ide rp rv rt tm tc) =
      { rawPos := rp, rawVel := rv, rawTor := rt
        pos := quantDecode (rp.setWidth 32) (fneg cfg.pMax) cfg.pMax 16
        vel := quantDecode (rv.setWidth 32) (fneg cfg.vMax) cfg.vMax 12
        tor := quantDecode (rt.setWidth 32) (fneg cfg.tMax) cfg.tMax 12
        tMos := u2f tm.toNat, tCoil := u2f tc.toNat
        state := st.setWidth 8, idEcho := ide.setWidth 8 } := by
  simp only [feedbackOf, cutRawPos_feedbackPayload, cutRawVel_feedbackPayload, cutRawTor_feedbackPayload,
    cutState_feedbackPayload, cutIdEcho_feedbackPayload]
  rfl

end

/-! ## The RX transaction (46_registry.md R193) -/

/-- R167: byte 2 alone tells a read-response. -/
theorem isReadResponse_eq_false {data : Payload} (htag : data.b2 ≠ 0x33) : isReadResponse data = false :=
  beq_false_of_ne htag

/-- R154, R193: a frame that a slot owns and that is no read-response runs the feedback stage on that slot alone. -/
theorem exec_rxFb {rxId : Id16} {data : Payload} {s : State} {k : Nat} {m : Motor} (hk : rxSlot s rxId = some k)
    (hm : s.motors[k]? = some m) (htag : data.b2 ≠ 0x33) :
    exec (.rxFb rxId data) s = .next ((s.setMotor k (feedbackStage m data)).complete none {} none) := by
  simp [exec, execRxFb, receiveFrame, hk, hm, isReadResponse_eq_false htag]

/-- Settles O35: the position's low byte is byte 2, so the transaction is the feedback stage, field by field. -/
theorem feedbackFramesAreDecoded : Obligations.FeedbackFramesAreDecoded := by
  intro s rxId k m st ide rp rv rt tm tc hk hm htag
  have hb2 : (feedbackPayload st ide rp rv rt tm tc).b2 ≠ 0x33 := htag
  rw [ofBits_eq_feedbackPayload, exec_rxFb hk hm hb2, feedbackStage, feedbackOf_feedbackPayload]
  rfl

end Sys2Proof.Machine
end

section
/-! SUPPORT. The register protocol outbound (44_register_protocol.md R160 to R165): its select codes, a frame sent to
`MGMT_ID` with its answer, and what each of the three commands does on a slot that is there. -/

namespace Sys2Proof.Machine

/-! ## The select codes (30_encoding.md R72) -/

theorem decode_regrd (mode : Mode) {c : Command} (hop : c.op = 0x10) :
    decode mode (.cmd c) = .instr (.regrd c.slot (lowByte c.a0)) := by
  simp [decode, decodeCommand, hop]

theorem decode_regwr (mode : Mode) {c : Command} (hop : c.op = 0x11) :
    decode mode (.cmd c) = .instr (.regwr c.slot (lowByte c.a0) c.a1) := by
  simp [decode, decodeCommand, hop]

theorem decode_regsave (mode : Mode) {c : Command} (hop : c.op = 0x12) :
    decode mode (.cmd c) = .instr (.regsave c.slot) := by
  simp [decode, decodeCommand, hop]

/-! ## A frame to `MGMT_ID` (R84, R160) -/

/-- R160, R212: sending a register-protocol frame writes the output wires alone. -/
theorem emit_mgmtFrame (s : State) (len : BitVec 4) (data : Payload) :
    s.emit (mgmtFrame s.par len data) =
      { s with resp := some ⟨some 0, if s.txFail then 0x04 else 0x00, some ⟨s.par.mgmtId, len, data⟩⟩ } :=
  emit_unflagged s (mgmtFrame s.par len data)

/-! ## The commands on a slot that is there (R161 to R165) -/

section
variable {slot : Byte} {s : State} {m : Motor}

/-- R161, R162: whatever the register id, the read request is all there is. -/
theorem exec_regrd (rid : Byte) (hm : s.motors[slot.toNat]? = some m) :
    exec (.regrd slot rid) s = .next (s.emit (mgmtFrame s.par 4 (readPayload m.cfg.id rid))) := by
  rw [exec, execRegrd, onSlot_present hm]

/-- R163, R164: the data go out and nowhere else; the cache keeps what it has. -/
theorem exec_regwr (rid : Byte) (data : Word) (hm : s.motors[slot.toNat]? = some m) :
    exec (.regwr slot rid data) s = .next (s.emit (mgmtFrame s.par 8 (writePayload m.cfg.id rid data))) := by
  rw [exec, execRegwr, onSlot_present hm]

theorem exec_regsave (hm : s.motors[slot.toNat]? = some m) :
    exec (.regsave slot) s = .next (s.emit (mgmtFrame s.par 4 (savePayload m.cfg.id))) := by
  rw [exec, execRegsave, onSlot_present hm]

end

/-! ## The obligations on the register protocol -/

/-- Settles O31: the frame of F-RRD, byte by byte. -/
theorem regrdSendsItsFrame : Obligations.RegrdSendsItsFrame := by
  refine ⟨fun mode _ _ _ _ _ _ _ => decode_regrd mode rfl, ?_⟩
  intro slot rid s m hm
  rw [exec_regrd rid hm, emit_mgmtFrame]
  rfl

/-- Settles O32: the frame of F-RWR, byte by byte. -/
theorem regwrSendsItsFrame : Obligations.RegwrSendsItsFrame := by
  refine ⟨fun mode _ _ _ _ _ _ _ => decode_regwr mode rfl, ?_⟩
  intro slot rid data s m hm
  rw [exec_regwr rid data hm, emit_mgmtFrame]
  rfl

/-- Settles O33: the frame of F-RSV, byte by byte. -/
theorem regsaveSendsItsFrame : Obligations.RegsaveSendsItsFrame := by
  refine ⟨fun mode _ _ _ _ _ _ _ => decode_regsave mode rfl, ?_⟩
  intro slot s m hm
  rw [exec_regsave hm, emit_mgmtFrame]
  rfl

end Sys2Proof.Machine
end

section
/-! SUPPORT. The register sequencer (45_sequencer.md R175 to R185): what `SCANSTART` does, what a read-response does in
each state of the sequencer, and the run of a whole scan. -/

namespace Sys2Proof.Machine

/-! ## The table and the wire format (R7, R82, R175) -/

theorem regEntry_succ (p : Params) (n : Nat) : regEntry p (n + 1) = p.regTable[n]? := by
  simp [regEntry]

/-- R8 (c): with distinct ids, an id names one entry. -/
theorem index_eq_of_rid_eq {table : List RegEntry} {i j : Nat} {e e' : RegEntry}
    (hdistinct : (table.map RegEntry.rid).Nodup) (he : table[i]? = some e) (he' : table[j]? = some e')
    (hrid : e.rid = e'.rid) : i = j := by
  have hi : i < (table.map RegEntry.rid).length := by
    simpa using (List.getElem?_eq_some_iff.1 he).1
  refine (List.getElem?_inj hi hdistinct).1 ?_
  rw [List.getElem?_map, List.getElem?_map, he, he', Option.map_some, Option.map_some, hrid]

/-- R17: the four little-endian bytes of a word give the word back. -/
theorem fromLe32_leByte (w : Word) : fromLe32 (leByte w 0) (leByte w 1) (leByte w 2) (leByte w 3) = w := by
  apply BitVec.eq_of_toNat_eq
  have hw := w.isLt
  simp only [fromLe32, leByte, toNat_append_eq_add, BitVec.extractLsb'_toNat, Nat.shiftRight_eq_div_pow]
  omega

/-- The payload of a read-response (R82). -/
def responsePayload (b0 b1 rid : Byte) (val : Word) : Payload :=
  ⟨b0, b1, 0x33, rid, leByte val 0, leByte val 1, leByte val 2, leByte val 3⟩

@[simp] theorem cutValue_responsePayload (b0 b1 rid : Byte) (val : Word) :
    cutValue (responsePayload b0 b1 rid val) = val :=
  fromLe32_leByte val

theorem decode_responseWord (mode : Mode) (rxId : Id16) (b0 b1 rid : Byte) (val : Word) :
    decode mode (responseWord rxId b0 b1 rid val) = .instr (.rxRsp rxId (responsePayload b0 b1 rid val)) :=
  rfl

/-! ## `SCANSTART` (R177) -/

theorem decode_scanstart (mode : Mode) {c : Command} (hop : c.op = 0x13) :
    decode mode (.cmd c) = .instr (.scanstart c.slot) := by
  simp [decode, decodeCommand, hop]

theorem exec_scanstart {slot : Byte} {s : State} {m : Motor} {first : RegEntry}
    (hm : s.motors[slot.toNat]? = some m) (hfirst : s.par.regTable[0]? = some first) :
    exec (.scanstart slot) s =
      .next ((s.setMotor slot.toNat (m.withCursor 1)).emit (readRequest s.par m first)) := by
  simp [exec, execScanstart, onSlot_present hm, regEntry_succ, hfirst]

/-! ## An accepted response (R178) -/

/-- R178: there is an entry after the one read exactly when the cursor is below `NREG`, so an accepted response never
stops: it requests the next entry if there is one. -/
theorem acceptResponse_eq (k : Nat) (m : Motor) (val : Word) (s : State) :
    acceptResponse k m val s = .next ((s.setMotor k (advanceScan s.par m val)).complete none
      { adv := true, txErr := (s.par.regTable[m.cursor]?).isSome && s.txFail }
      ((s.par.regTable[m.cursor]?).map (readRequest s.par m))) := by
  cases hnext : s.par.regTable[m.cursor]? with
  | none =>
    have hlast : ¬ m.cursor < s.par.nreg := Nat.not_lt.2 (List.getElem?_eq_none_iff.1 hnext)
    simp [acceptResponse, hlast]
  | some e =>
    obtain ⟨hlt, -⟩ := List.getElem?_eq_some_iff.1 hnext
    have hlt : m.cursor < s.par.nreg := hlt
    simp [acceptResponse, hlt, regEntry_succ, hnext]

/-- R178: the record after an accepted response in `Reading(n + 1)`, the word of whose entry is at index `n`. -/
theorem advanceScan_eq {p : Params} {m : Motor} {n : Nat} (val : Word) (hcur : m.cursor = n + 1) :
    advanceScan p m val =
      { m with cache := m.cache.set n val, cursor := if n + 1 < p.nreg then n + 2 else 0 } := by
  simp [advanceScan, Motor.withCacheWord, Motor.withCursor, hcur]

/-- Both stages write the record of the same slot. -/
theorem setMotor_setMotor (s : State) (k : Nat) (m m' : Motor) :
    (s.setMotor k m).setMotor k m' = s.setMotor k m' := by
  simp [State.setMotor]

/-! ## A read-response in each state of the sequencer (R178 to R180, R195) -/

section
variable {rxId : Id16} {data : Payload} {s : State} {k n : Nat} {m : Motor} {e : RegEntry}

/-- R193, R195: a read-response that a slot owns runs the register stage on what the feedback stage leaves. -/
theorem exec_rxRsp (hk : rxSlot s rxId = some k) (hm : s.motors[k]? = some m) (htag : data.b2 = 0x33) :
    exec (.rxRsp rxId data) s =
      registerStage k (feedbackStage m data) data.b3 (cutValue data) (s.setMotor k (feedbackStage m data)) := by
  simp [exec, execRxRsp, receiveFrame, hk, hm, isReadResponse, htag, cutRid]

/-- R180: `Idle`. -/
theorem exec_rxRsp_idle (hk : rxSlot s rxId = some k) (hm : s.motors[k]? = some m) (hcur : m.cursor = 0)
    (htag : data.b2 = 0x33) :
    exec (.rxRsp rxId data) s = .next ((s.setMotor k (feedbackStage m data)).complete none {} none) := by
  have hcur' : (feedbackStage m data).cursor = 0 := hcur
  rw [exec_rxRsp hk hm htag, registerStage, if_pos hcur']

/-- R178, R179: in `Reading(n + 1)` the register id alone decides between the two transitions. -/
theorem exec_rxRsp_reading (hk : rxSlot s rxId = some k) (hm : s.motors[k]? = some m) (hcur : m.cursor = n + 1)
    (he : s.par.regTable[n]? = some e) (htag : data.b2 = 0x33) :
    exec (.rxRsp rxId data) s =
      if data.b3 = e.rid then
        acceptResponse k (feedbackStage m data) (cutValue data) (s.setMotor k (feedbackStage m data))
      else .next ((s.setMotor k (feedbackStage m data)).complete none { desync := true } none) := by
  have hcur' : (feedbackStage m data).cursor = n + 1 := hcur
  simp [exec_rxRsp hk hm htag, registerStage, hcur', regEntry_succ, he]

/-- R179: a mismatch. -/
theorem exec_rxRsp_mismatched (hk : rxSlot s rxId = some k) (hm : s.motors[k]? = some m) (hcur : m.cursor = n + 1)
    (he : s.par.regTable[n]? = some e) (htag : data.b2 = 0x33) (hrid : data.b3 ≠ e.rid) :
    exec (.rxRsp rxId data) s =
      .next ((s.setMotor k (feedbackStage m data)).complete none { desync := true } none) := by
  rw [exec_rxRsp_reading hk hm hcur he htag, if_neg hrid]

/-- R178: the expected response, whether or not an entry follows. -/
theorem exec_rxRsp_expected (hk : rxSlot s rxId = some k) (hm : s.motors[k]? = some m) (hcur : m.cursor = n + 1)
    (he : s.par.regTable[n]? = some e) (htag : data.b2 = 0x33) (hrid : data.b3 = e.rid) :
    exec (.rxRsp rxId data) s =
      .next ((s.setMotor k { m with
          fb := feedbackOf m.cfg data
          cache := m.cache.set n (cutValue data)
          cursor := if n + 1 < s.par.nreg then n + 2 else 0 }).complete none
        { adv := true, txErr := (s.par.regTable[n + 1]?).isSome && s.txFail }
        ((s.par.regTable[n + 1]?).map (readRequest s.par m))) := by
  have hcur' : (feedbackStage m data).cursor = n + 1 := hcur
  rw [exec_rxRsp_reading hk hm hcur he htag, if_pos hrid, acceptResponse_eq, advanceScan_eq _ hcur', hcur',
    setMotor_setMotor]
  rfl

end

/-! ## A whole scan (R183) -/

/-- A run of one step more is the run, then a step. -/
theorem run_add_one {M : Host.Core} {i : Nat} {s t : M.State} (h : M.run i s = .next t) :
    M.run (i + 1) s = M.step t := by
  induction i generalizing s with
  | zero =>
    obtain rfl : s = t := Host.Outcome.next.inj h
    cases hstep : M.step s <;> simp [Host.Core.run, hstep]
  | succ i ih =>
    cases hstep : M.step s with
    | next u =>
      have hrest : M.run i u = .next t := by simpa [Host.Core.run, hstep] using h
      rw [← ih hrest, Host.Core.run, hstep]
    | fault | refused => simp [Host.Core.run, hstep] at h

/-- The events of a scan, one at a time. -/
theorem drop_scanResponses {rxId : Id16} {b0 b1 : Byte} {txFail : Bool} {table : List RegEntry} {vals : List Word}
    {i : Nat} {e : RegEntry} {val : Word} (he : table[i]? = some e) (hval : vals[i]? = some val) :
    (scanResponses rxId b0 b1 txFail table vals).drop i =
      .transaction (responseWord rxId b0 b1 e.rid val) txFail ::
        (scanResponses rxId b0 b1 txFail table vals).drop (i + 1) := by
  have hpair : (table.zip vals)[i]? = some (e, val) := List.getElem?_zip_eq_some.2 ⟨he, hval⟩
  have hi : (scanResponses rxId b0 b1 txFail table vals)[i]? =
      some (.transaction (responseWord rxId b0 b1 e.rid val) txFail) := by
    rw [scanResponses, List.getElem?_map, hpair, Option.map_some]
  obtain ⟨hlt, hget⟩ := List.getElem?_eq_some_iff.1 hi
  rw [List.drop_eq_getElem_cons hlt, hget]

/-- Storing the word of entry `i + 1` extends the part of the cache that is new by one word. -/
theorem set_take_append_drop {vals old : List Word} {i : Nat} {val : Word} (hval : vals[i]? = some val)
    (hold : i < old.length) :
    (vals.take i ++ old.drop i).set i val = vals.take (i + 1) ++ old.drop (i + 1) := by
  obtain ⟨hlt, rfl⟩ := List.getElem?_eq_some_iff.1 hval
  have htake : (vals.take i).length = i := List.length_take_of_le hlt.le
  rw [List.set_append_right _ _ htake.le, htake, Nat.sub_self, List.drop_eq_getElem_cons hold, List.set_cons_zero,
    ← List.take_append_getElem hlt, List.append_assoc, List.singleton_append]

/-- What holds after `i` of the offered responses of a scan of slot `k` (R183): of `t`, which the run has reached, and
of `n`, the record the slot has there; `s` and `m` are what the scan began with. -/
structure ScanProgress (s : State) (k : Nat) (m : Motor) (vals : List Word) (offered : List Event) (i : Nat)
    (t : State) (n : Motor) : Prop where
  rst : t.rst = false
  constants : SameConstants s t
  inputs : t.inputs = offered.drop i
  record : t.motors[k]? = some n
  cfg : n.cfg = m.cfg
  cursor : n.cursor = if i < s.par.nreg then i + 1 else 0
  cache : n.cache = vals.take i ++ m.cache.drop i

section
variable {s : State} {rxId : Id16} {k : Nat} {m : Motor} {b0 b1 : Byte} {txFail : Bool} {vals : List Word}

/-- R183: the state in which the scan begins. -/
theorem ScanProgress.start {offered : List Event} (hs : s.Inv) (hrst : s.rst = false) (hm : s.motors[k]? = some m)
    (hcur : m.cursor = 1) (hin : s.inputs = offered) : ScanProgress s k m vals offered 0 s m where
  rst := hrst
  constants := .of_motors_eq rfl rfl
  inputs := hin
  record := hm
  cfg := rfl
  cursor := by
    have hpos : 0 < s.par.nreg := hs.nreg_pos
    rw [hcur, if_pos hpos]
  cache := rfl

/-- R178, R183: the next response in order takes the scan on by one entry and requests the entry after it. -/
theorem ScanProgress.step {i : Nat} {t : State} {n : Motor} (hk : rxSlot s rxId = some k)
    (hvals : vals.length = s.par.nreg) (hcache : m.cache.length = s.par.nreg) (hi : i < s.par.nreg)
    (h : ScanProgress s k m vals (scanResponses rxId b0 b1 txFail s.par.regTable vals) i t n) :
    ∃ u n' r, Machine.step t = .next u ∧
      ScanProgress s k m vals (scanResponses rxId b0 b1 txFail s.par.regTable vals) (i + 1) u n' ∧
      u.resp = some r ∧ r.frame = (s.par.regTable[i + 1]?).map (readRequest s.par m) := by
  obtain ⟨e, he⟩ : ∃ e, s.par.regTable[i]? = some e := ⟨_, List.getElem?_eq_getElem hi⟩
  obtain ⟨val, hval⟩ : ∃ val, vals[i]? = some val := ⟨_, List.getElem?_eq_getElem (hvals ▸ hi)⟩
  have hcur : n.cursor = i + 1 := by rw [h.cursor, if_pos hi]
  have hslot : rxSlot t rxId = some k := (rxSlot_congr h.constants.par h.constants.cfgs rxId).trans hk
  have het : t.par.regTable[i]? = some e := by rw [h.constants.par]; exact he
  have hreq : readRequest s.par n = readRequest s.par m := funext fun _ => by simp only [readRequest, h.cfg]
  have hin := h.inputs.trans (drop_scanResponses he hval)
  have hstep := (step_eq_exec hin h.rst (decode_responseWord ..)).trans
    (exec_rxRsp_expected hslot h.record hcur het rfl rfl)
  have hsame := (step_releases_or_sameConstants hstep).resolve_left (by simp [hin])
  have hk' : k < t.motors.length := (List.getElem?_eq_some_iff.1 h.record).1
  refine ⟨_, _, _, hstep, ⟨h.rst, h.constants.trans hsame, rfl, setMotor_read_self _ _ hk', h.cfg, ?_, ?_⟩, rfl, ?_⟩
  · rw [← h.constants.par]
    rfl
  · rw [cutValue_responsePayload, ← set_take_append_drop hval (hcache ▸ hi), ← h.cache]
  · rw [← hreq, ← h.constants.par]
    rfl

/-- R183: the run through the first `i` responses. -/
theorem run_scanResponses (hs : s.Inv) (hrst : s.rst = false) (hk : rxSlot s rxId = some k)
    (hm : s.motors[k]? = some m) (hcur : m.cursor = 1) (hvals : vals.length = s.par.nreg)
    (hin : s.inputs = scanResponses rxId b0 b1 txFail s.par.regTable vals) {i : Nat} (hi : i ≤ s.par.nreg) :
    ∃ t n, Host.Core.run core i s = .next t ∧
      ScanProgress s k m vals (scanResponses rxId b0 b1 txFail s.par.regTable vals) i t n := by
  induction i with
  | zero => exact ⟨s, m, rfl, .start hs hrst hm hcur hin⟩
  | succ i ih =>
    obtain ⟨t, n, hrun, hprogress⟩ := ih (by omega)
    obtain ⟨u, n', r, hstep, hnext, -, -⟩ := hprogress.step hk hvals (hs.motor hm).cache_length hi
    exact ⟨u, n', (run_add_one hrun).trans hstep, hnext⟩

end

/-! ## The obligations on the sequencer -/

/-- Settles O39: the run to response `j`, by induction, then one step more. -/
theorem inOrderResponsesCompleteTheScan : Obligations.InOrderResponsesCompleteTheScan := by
  intro s rxId k m b0 b1 txFail vals hs hrst hk hm hcur hvals hin j hj
  obtain ⟨t, n, hrun, hprogress⟩ := run_scanResponses hs hrst hk hm hcur hvals hin hj.le
  obtain ⟨u, n', r, hstep, hnext, hresp, hframe⟩ := hprogress.step hk hvals (hs.motor hm).cache_length hj
  exact ⟨u, n', r, (run_add_one hrun).trans hstep, hnext.record, hresp, hnext.cursor, hnext.cache, hframe⟩

/-- Settles O36: the payload is that of a read-response with the value `val`; the next entry gives the request. -/
theorem expectedResponsesAdvanceTheScan : Obligations.ExpectedResponsesAdvanceTheScan := by
  intro s rxId k n m b0 b1 val e hk hm hcur he data
  have hexec : exec (.rxRsp rxId data) s = _ := exec_rxRsp_expected hk hm hcur he rfl rfl
  have hval : cutValue data = val := cutValue_responsePayload b0 b1 e.rid val
  refine ⟨fun e' hnext => ?_, fun hnext => ?_⟩
  · have hlt : n + 1 < s.par.nreg := (List.getElem?_eq_some_iff.1 hnext).1
    rw [hexec, hval, hnext, if_pos hlt, Option.isSome_some, Bool.true_and, State.complete, statusWord_adv]
    rfl
  · have hlast : ¬ n + 1 < s.par.nreg := Nat.not_lt.2 (List.getElem?_eq_none_iff.1 hnext)
    rw [hexec, hval, hnext, if_neg hlast, Option.isSome_none, Bool.false_and]
    rfl

/-- Settles O40: the ids are distinct, so the response of entry `n + 1` mismatches entry `n + 2`. -/
theorem lateDuplicatesAreDesync : Obligations.LateDuplicatesAreDesync := by
  intro s t rxId k n m m' data e hdistinct hk hm hcur hlt he htag hrid hfirst hm'
  obtain ⟨e', he'⟩ : ∃ e', s.par.regTable[n + 1]? = some e' := ⟨_, List.getElem?_eq_getElem hlt⟩
  have hadvanced := exec_rxRsp_expected hk hm hcur he htag hrid
  have hsame := exec_sameConstants hfirst
  have hcur' : m'.cursor = n + 2 := by
    obtain rfl : _ = t := Host.Outcome.next.inj (hadvanced.symm.trans hfirst)
    obtain rfl : _ = m' := Option.some.inj ((setMotor_read_self _ _ (rxSlot_lt hk)).symm.trans hm')
    exact if_pos hlt
  have hother : data.b3 ≠ e'.rid := by
    intro heq
    have := index_eq_of_rid_eq hdistinct he he' (hrid.symm.trans heq)
    omega
  have hkt : rxSlot t rxId = some k := (rxSlot_congr hsame.par hsame.cfgs rxId).trans hk
  have het : t.par.regTable[n + 1]? = some e' := by rw [hsame.par]; exact he'
  exact ⟨hcur', _, feedbackStage m' data, exec_rxRsp_mismatched hkt hm' hcur' het htag hother,
    setMotor_read_self _ _ (rxSlot_lt hkt), hcur', rfl, rfl⟩

/-- Settles O34: the entry requested is the first one of a table that is not empty. -/
theorem scanstartRequestsTheFirstEntry : Obligations.ScanstartRequestsTheFirstEntry := by
  refine ⟨fun mode _ _ _ _ _ _ _ => decode_scanstart mode rfl, ?_⟩
  intro slot s m first others hm htable
  rw [exec_scanstart hm (congrArg (·[0]?) htable), emit_unflagged]
  rfl

/-- Settles O37: the register stage adds the flag to what the feedback stage has done. -/
theorem mismatchedResponsesAreDesync : Obligations.MismatchedResponsesAreDesync := by
  intro s rxId k n m data e hk hm hcur he htag hrid
  rw [exec_rxRsp_mismatched hk hm hcur he htag hrid]
  rfl

/-- Settles O38: the register stage adds nothing to what the feedback stage has done. -/
theorem responsesInIdleAreIgnored : Obligations.ResponsesInIdleAreIgnored := by
  intro s rxId k m data hk hm hcur htag
  rw [exec_rxRsp_idle hk hm hcur htag]
  rfl

end Sys2Proof.Machine
end

section
/-! SUPPORT. Ownership and isolation (46_registry.md R198, R202): the one record an operation writes is that of the slot it
names, each field by its owner alone; and the slot an operation names is the slot of its word. -/

namespace Sys2Proof.Machine

/-! ## The record an operation writes -/

/-- What operation `i` can make of the record `m` of slot `k`: the effect of a command on that slot, or of a frame whose
id that slot owns. -/
inductive RecordEffect (s : State) (i : Instr) : (k : Nat) → (m m' : Motor) → Prop where
  | command {slot : Byte} {m m' : Motor} (effect : SlotEffect s.par slot m i m') : RecordEffect s i slot.toNat m m'
  | received {rxId : Id16} {data : Payload} {k : Nat} {m m' : Motor} (rx : i = .rxFb rxId data ∨ i = .rxRsp rxId data)
      (owns : rxSlot s rxId = some k) (cfg : m'.cfg = m.cfg) (mode : m'.mode = m.mode) (tgt : m'.tgt = m.tgt)
      (fb : m'.fb = feedbackOf m.cfg data) (scan : ScanEffect s.par data m m') : RecordEffect s i k m m'

/-- R202: the slot a command names is its operand. -/
theorem namedSlot_of_slotOperand {i : Instr} {slot : Byte} (h : slotOperand i = some slot) (s : State) :
    namedSlot s i = some slot.toNat := by
  simp [namedSlot, h]

/-- R202: the slot an RX operation names is the owner of its id. -/
theorem namedSlot_of_rx {i : Instr} {rxId : Id16} {data : Payload} (h : i = .rxFb rxId data ∨ i = .rxRsp rxId data)
    (s : State) : namedSlot s i = rxSlot s rxId := by
  rcases h with rfl | rfl <;> rfl

/-- R46: of the whole state an operation writes its outputs and at most one record, that of the slot it names. -/
theorem exec_writes {i : Instr} {s t : State} (h : exec i s = .next t) :
    (∃ r, t = { s with resp := some r }) ∨
    ∃ k m m' r, namedSlot s i = some k ∧ s.motors[k]? = some m ∧ t = { s.setMotor k m' with resp := some r } ∧
      RecordEffect s i k m m' := by
  rcases exec_effect h with hnone | ⟨slot, m, m', r, hslot, hm, ht, heff⟩ |
    ⟨rxId, data, k, m, m', r, hrx, hk, hm, ht, hcfg, hmode, htgt, hfb, hscan⟩
  · exact .inl hnone
  · exact .inr ⟨_, m, m', r, namedSlot_of_slotOperand hslot s, hm, ht, .command heff⟩
  · exact .inr ⟨k, m, m', r, (namedSlot_of_rx hrx s).trans hk, hm, ht, .received hrx hk hcfg hmode htgt hfb hscan⟩

/-- Before and after an operation, the record of any slot is the same or was written by that operation. -/
theorem exec_record {i : Instr} {s t : State} {k : Nat} {m m' : Motor} (h : exec i s = .next t)
    (hm : s.motors[k]? = some m) (hm' : t.motors[k]? = some m') : m' = m ∨ RecordEffect s i k m m' := by
  rcases exec_writes h with ⟨r, rfl⟩ | ⟨j, n, n', r, -, hn, rfl, heff⟩
  · exact .inl (Option.some.inj (hm'.symm.trans hm))
  · have hread : (s.setMotor j n').motors[k]? = some m' := hm'
    by_cases hjk : j = k
    · subst hjk
      have hj : j < s.motors.length := (List.getElem?_eq_some_iff.1 hm).1
      obtain rfl : n = m := Option.some.inj (hn.symm.trans hm)
      obtain rfl : n' = m' := Option.some.inj ((setMotor_read_self s n' hj).symm.trans hread)
      exact .inr heff
    · exact .inl (Option.some.inj (hread.symm.trans ((setMotor_read_other s n' hjk).trans hm)))

/-! ## Owners (R198) -/

/-- R178: the sequencer moves only on a read-response with the register id of the entry it reads. -/
theorem ScanEffect.expected_of_ne {p : Params} {data : Payload} {m m' : Motor} (h : ScanEffect p data m m')
    (hne : m'.cache ≠ m.cache ∨ m'.cursor ≠ m.cursor) :
    ∃ n e, data.b2 = 0x33 ∧ m.cursor = n + 1 ∧ p.regTable[n]? = some e ∧ data.b3 = e.rid := by
  rcases h with ⟨hcache, hcursor⟩ | ⟨n, e, hcur, he, htag, hrid, -, -⟩
  · exact absurd hne (by simp [hcache, hcursor])
  · exact ⟨n, e, htag, hcur, he, hrid⟩

/-- Settles O46: the record is unchanged, or written by a command, each of which writes one field, or by a received
frame. -/
theorem fieldsAreWrittenByTheirOwners : Obligations.FieldsAreWrittenByTheirOwners := by
  intro i s t k m m' h hm hm'
  rcases exec_record h hm hm' with rfl | @⟨slot, _, _, heff⟩ |
    @⟨rxId, data, _, _, _, hrx, hk, hcfg, hmode, htgt, -, hscan⟩
  · exact ⟨rfl, absurd rfl, absurd rfl, absurd rfl, absurd rfl, absurd rfl⟩
  · cases heff with
    | mode code =>
      exact ⟨rfl, fun _ => ⟨slot, code, rfl, rfl⟩, absurd rfl, absurd rfl, absurd rfl, absurd rfl⟩
    | tgt a b c d e f =>
      exact ⟨rfl, absurd rfl, fun _ => ⟨slot, rfl, .inr ⟨a, b, c, d, e, f, rfl⟩⟩, absurd rfl, absurd rfl, absurd rfl⟩
    | disabled =>
      exact ⟨rfl, absurd rfl, fun _ => ⟨slot, rfl, .inl rfl⟩, absurd rfl, absurd rfl, absurd rfl⟩
    | scan =>
      exact ⟨rfl, absurd rfl, absurd rfl, absurd rfl, absurd rfl, fun _ => .inl ⟨slot, rfl, rfl, rfl⟩⟩
  · have moved (hne : m'.cache ≠ m.cache ∨ m'.cursor ≠ m.cursor) := hscan.expected_of_ne hne
    refine ⟨hcfg, absurd hmode, absurd htgt, fun _ => ⟨rxId, data, hrx, hk⟩, fun hcache => ?_, fun hcursor => .inr ?_⟩
    · obtain ⟨n, e, hexpected⟩ := moved (.inl hcache)
      exact ⟨rxId, data, n, e, hrx, hk, hexpected⟩
    · obtain ⟨n, e, hexpected⟩ := moved (.inr hcursor)
      exact ⟨rxId, data, n, e, hrx, hk, hexpected⟩

/-! ## Isolation (R202) -/

/-- The slot an operation names is the slot of the word it was decoded from; `QENC` and `QDEC` name none. -/
theorem namedSlot_of_decode {mode : Mode} {w : PortWord} {i : Instr} (h : decode mode w = .instr i) (s : State) :
    namedSlot s i = none ∨ namedSlot s i = wordSlot s w := by
  cases w with
  | cmd c =>
    obtain ⟨hid, hslot | hslot⟩ := decodeCommand_slot h
    · exact .inl (by simp [namedSlot, hslot, hid])
    · exact .inr (namedSlot_of_slotOperand hslot s)
  | rx f =>
    obtain ⟨hslot, hid, -⟩ := decodeFrame_id h
    exact .inr (by simp [namedSlot, wordSlot, hslot, hid])

/-- A word that names no operation writes the outputs alone (R89 (a), R194). -/
theorem rejectWord_motors (e : DecodeError) (s : State) : (rejectWord e s).motors = s.motors := by
  cases e <;> rfl

/-- An operation reads back unchanged every record but that of the slot it names. -/
theorem exec_motors_other {i : Instr} {s t : State} {k : Nat} (h : exec i s = .next t) (hk : namedSlot s i ≠ some k) :
    t.motors[k]? = s.motors[k]? := by
  rcases exec_writes h with ⟨r, rfl⟩ | ⟨j, m, m', r, hj, -, rfl, -⟩
  · rfl
  · exact setMotor_read_other s m' fun hjk => hk (hjk ▸ hj)

/-- Settles O47: an operation writes one record at most, that of the slot it names; a transaction is the operation of its
word, or writes none. -/
theorem otherSlotsAreUntouched : Obligations.OtherSlotsAreUntouched := by
  constructor
  · intro i s t h
    refine ⟨(exec_sameConstants h).par, ?_, ?_, (exec_sameConstants h).nmotor, fun k => exec_motors_other h⟩
    all_goals rcases exec_writes h with ⟨r, rfl⟩ | ⟨j, m, m', r, -, -, rfl, -⟩ <;> rfl
  · intro s t w txFail rest hin hrst h k hk
    cases hdec : decode (portMode s w) w with
    | rejected e =>
      obtain rfl := Host.Outcome.next.inj ((step_eq_rejectWord hin hrst hdec).symm.trans h)
      rw [rejectWord_motors]
      rfl
    | instr i =>
      have hexec := (step_eq_exec hin hrst hdec).symm.trans h
      have hother : namedSlot (takeTransaction s rest txFail) i ≠ some k := by
        rcases namedSlot_of_decode hdec (takeTransaction s rest txFail) with hnone | hword
        · simp [hnone]
        · rw [hword]
          cases w <;> exact hk
      have hsame : t.motors[k]? = (takeTransaction s rest txFail).motors[k]? := exec_motors_other hexec hother
      exact hsame

end Sys2Proof.Machine
end

section
/-! SUPPORT. A received frame (46_registry.md R193, R194): which words are RX transactions, and what an accepted one
leaves of the feedback and of the status. -/

namespace Sys2Proof.Machine

/-- Bit 3 of the status word (R210). -/
theorem statusWord_drop (f : Flags) : (statusWord f).getLsbD 3 = f.drop := by
  have hbits : ∀ ill ovf txErr drop desync adv : Bool,
      (statusWord ⟨ill, ovf, txErr, drop, desync, adv⟩).getLsbD 3 = drop := by decide
  exact hbits f.ill f.ovf f.txErr f.drop f.desync f.adv

/-- R194: a frame of another length than 8 names no operation. -/
theorem step_rx_wrongLength {s : State} {f : RxFrame} {txFail : Bool} {rest : List Event}
    (hin : s.inputs = .transaction (.rx f) txFail :: rest) (hrst : s.rst = false) (hlen : f.len ≠ 8) :
    step s = .next (takeTransaction s rest txFail).dropFrame :=
  step_eq_rejectWord hin hrst (if_neg hlen)

/-- R95, R193: a frame of 8 bytes is one RX transaction, whatever its payload. -/
theorem step_rx {s : State} {f : RxFrame} {txFail : Bool} {rest : List Event}
    (hin : s.inputs = .transaction (.rx f) txFail :: rest) (hrst : s.rst = false) (hlen : f.len = 8) :
    step s = receiveFrame f.id f.data (takeTransaction s rest txFail) := by
  have hdec : decode (portMode s (.rx f)) (.rx f) =
      if isReadResponse f.data then .instr (.rxRsp f.id f.data) else .instr (.rxFb f.id f.data) := if_pos hlen
  split at hdec
  · exact step_eq_exec hin hrst hdec
  · exact step_eq_exec hin hrst hdec

/-- R194: an id no slot owns. -/
theorem receiveFrame_unowned {s : State} {rxId : Id16} (data : Payload) (hk : rxSlot s rxId = none) :
    receiveFrame rxId data s = .next s.dropFrame := by
  simp [receiveFrame, hk]

/-- R194, R195: an RX transaction of a slot that meets the invariant completes without `drop`, in every state of the
sequencer, and leaves the slot the feedback of its payload. -/
theorem receiveFrame_accepted {s : State} {rxId : Id16} {data : Payload} {k : Nat} {m : Motor}
    (hk : rxSlot s rxId = some k) (hm : s.motors[k]? = some m) (hinv : m.Inv s.par) :
    ∃ m' flags frame, receiveFrame rxId data s = .next ((s.setMotor k m').complete none flags frame) ∧
      m'.fb = feedbackOf m.cfg data ∧ flags.drop = false := by
  by_cases htag : data.b2 = 0x33
  case neg => exact ⟨_, _, _, exec_rxFb hk hm htag, rfl, rfl⟩
  cases hcur : m.cursor with
  | zero => exact ⟨_, _, _, exec_rxRsp_idle hk hm hcur htag, rfl, rfl⟩
  | succ n =>
    have hlt : n < s.par.nreg := by
      have hle := hinv.cursor_le
      omega
    obtain ⟨e, he⟩ : ∃ e, s.par.regTable[n]? = some e := ⟨_, List.getElem?_eq_getElem hlt⟩
    by_cases hrid : data.b3 = e.rid
    · exact ⟨_, _, _, exec_rxRsp_expected hk hm hcur he htag hrid, rfl, rfl⟩
    · exact ⟨_, _, _, exec_rxRsp_mismatched hk hm hcur he htag hrid, rfl, rfl⟩

/-- Settles O4: a wrong length, an id without an owner, and an owned frame. -/
theorem framesAreDroppedOrAccepted : Obligations.FramesAreDroppedOrAccepted := by
  intro s f txFail rest hin hrst
  refine ⟨fun hdropped => ?_, fun k hlen hk hs => ?_⟩
  · by_cases hlen : f.len = 8
    · have hk : rxSlot s f.id = none := hdropped.resolve_left (not_not_intro hlen)
      exact (step_rx hin hrst hlen).trans (receiveFrame_unowned f.data hk)
    · exact step_rx_wrongLength hin hrst hlen
  · have hlt : k < s.motors.length := rxSlot_lt hk
    have hm : s.motors[k]? = some s.motors[k] := List.getElem?_eq_getElem hlt
    obtain ⟨m', flags, frame, hreceive, hfb, hdrop⟩ :=
      receiveFrame_accepted (s := takeTransaction s rest txFail) (data := f.data) hk hm (hs.motor hm)
    exact ⟨_, _, _, m', (step_rx hin hrst hlen).trans hreceive, rfl, (statusWord_drop flags).trans hdrop, hm,
      setMotor_read_self (takeTransaction s rest txFail) m' hlt, hfb⟩

end Sys2Proof.Machine
end

section
/-! SUPPORT. What a control frame reads (46_registry.md R201): the frame of a mode as a function of the parameters and the
record, and that two records which agree on what the mode transmits give the same frame. -/

namespace Sys2Proof.Machine

/-- The frame of a mode's encoder (R122, R124, R126, R129). -/
def controlFrame (p : Params) (m : Motor) : Mode → Frame
  | .mit => ⟨dest m.cfg.id p.offMit, 8, (mitFields p m.cfg m.tgt).1⟩
  | .position => ⟨dest m.cfg.id p.offPos, 8, posPayload m.tgt.pos m.tgt.vel⟩
  | .speed => ⟨dest m.cfg.id p.offSpd, 4, spdPayload m.tgt.vel⟩
  | .positionSpeedCurrent => ⟨dest m.cfg.id p.offPsc, 8, (pscFields m.tgt).1⟩

/-- It is the frame the encoder presents, whatever the transport answers (R212). -/
theorem sendControl_frame (m : Motor) (s : State) (mode : Mode) :
    ∃ r, (sendControl m s mode).resp = some r ∧ r.frame = some (controlFrame s.par m mode) := by
  cases mode <;> exact ⟨_, rfl, rfl⟩

/-- R201: the frame reads the id, the targets its mode transmits, and in mode `Mit` the limits. -/
theorem controlFrame_congr (p : Params) {m n : Motor} {mode : Mode} (hid : m.cfg.id = n.cfg.id)
    (hlimits : mode = .mit → m.cfg.pMax = n.cfg.pMax ∧ m.cfg.vMax = n.cfg.vMax ∧ m.cfg.tMax = n.cfg.tMax)
    (hread : agreeOnRead mode m.tgt n.tgt) : controlFrame p m mode = controlFrame p n mode := by
  cases mode with
  | mit =>
    obtain ⟨hpMax, hvMax, htMax⟩ := hlimits rfl
    obtain ⟨hpos, hvel, hkp, hkd, htorque⟩ := hread
    simp only [controlFrame, mitFields, hid, hpMax, hvMax, htMax, hpos, hvel, hkp, hkd, htorque]
  | position =>
    obtain ⟨hpos, hvel⟩ := hread
    simp only [controlFrame, hid, hpos, hvel]
  | speed =>
    have hvel : m.tgt.vel = n.tgt.vel := hread
    simp only [controlFrame, hid, hvel]
  | positionSpeedCurrent =>
    obtain ⟨hpos, hvel, hcurrent⟩ := hread
    simp only [controlFrame, pscFields, hid, hpos, hvel, hcurrent]

/-- Settles O28: each state presents the frame of its record, and the two are equal. -/
theorem controlFramesReadOnlyTheirModesFields : Obligations.ControlFramesReadOnlyTheirModesFields := by
  intro s t s' t' slot m n hpar hm hn hmode hid hlimits hread hs ht
  obtain rfl := Host.Outcome.next.inj ((exec_ctrl hm rfl).symm.trans hs)
  obtain rfl := Host.Outcome.next.inj ((exec_ctrl hn hmode.symm).symm.trans ht)
  obtain ⟨r, hr, hframe⟩ := sendControl_frame m s m.mode
  obtain ⟨r', hr', hframe'⟩ := sendControl_frame n t m.mode
  rw [← hpar, ← controlFrame_congr s.par hid hlimits hread] at hframe'
  refine ⟨r, r', _, hr, hr', hframe, hframe', fun hspeed => ?_⟩
  rw [hspeed]
  rfl

end Sys2Proof.Machine
end

section
/-! SUPPORT. Writing the mode and the targets (46_registry.md R190, R191). -/

namespace Sys2Proof.Machine

/-- R27: the codes 0 to 3 are the codes of the four modes. -/
theorem modeOfCode_legal {code : Byte} (h : code.toNat ≤ 3) :
    ∃ mode, modeOfCode code = some mode ∧ (modeCode mode).toNat = code.toNat := by
  have hcode : code = 0 ∨ code = 1 ∨ code = 2 ∨ code = 3 := by bv_omega
  rcases hcode with rfl | rfl | rfl | rfl
  · exact ⟨.mit, rfl, rfl⟩
  · exact ⟨.position, rfl, rfl⟩
  · exact ⟨.speed, rfl, rfl⟩
  · exact ⟨.positionSpeedCurrent, rfl, rfl⟩

theorem exec_setmode {slot code : Byte} {s : State} {m : Motor} {mode : Mode} (hm : s.motors[slot.toNat]? = some m)
    (hcode : modeOfCode code = some mode) :
    exec (.setmode slot code) s = .next (s.setMotor slot.toNat (m.withMode mode)).done := by
  rw [exec, execSetmode, onSlot_present hm, hcode]

theorem exec_settgt {slot : Byte} {s : State} {m : Motor} (pos vel kp kd torque current : F32)
    (hm : s.motors[slot.toNat]? = some m) : exec (.settgt slot pos vel kp kd torque current) s =
      .next (s.setMotor slot.toNat (m.withTgt ⟨pos, vel, kp, kd, torque, current⟩)).done := by
  rw [exec, execSettgt, onSlot_present hm]

theorem decode_settgt (mode : Mode) {c : Command} (hop : c.op = 0x05) :
    decode mode (.cmd c) = .instr (.settgt c.slot c.a0 c.a1 c.a2 c.a3 c.a4 c.a5) := by
  simp [decode, decodeCommand, hop]

/-- Settles O22: a code 0 to 3 is a mode's; a code above 3 is refused. -/
theorem setmodeWritesTheMode : Obligations.SetmodeWritesTheMode := by
  refine ⟨fun mode _ _ _ _ _ _ _ => decodeCommand_setmode mode rfl, ?_⟩
  intro slot code s m hm
  refine ⟨fun hlegal => ?_, exec_setmode_illegal⟩
  obtain ⟨mode, hcode, hsame⟩ := modeOfCode_legal hlegal
  exact ⟨mode, hsame, exec_setmode hm hcode⟩

/-- Settles O23: the write of the six targets, and no condition. -/
theorem settgtWritesAllSixTargets : Obligations.SettgtWritesAllSixTargets :=
  ⟨fun mode _ _ _ _ _ _ _ => decode_settgt mode rfl,
    fun _ pos vel kp kd torque current _ _ hm => exec_settgt pos vel kp kd torque current hm⟩

end Sys2Proof.Machine
end

section
/-! SUPPORT. The steps that run no operation (70_reset_and_hazards.md R240 to R242, 60_exceptions.md R227): an idle one, and
those of the reset input; and how a decoded frame differs from what reset leaves (R245). -/

namespace Sys2Proof.Machine

/-! ## An idle step, and the reset input (R227, R240 to R242) -/

/-- What a step leaves that finds no operation at the ports. -/
theorem step_quiet {s t : State} (h : fetch s = .quiet t) : step s = .next t := by
  rw [step, h]

/-- Settles O58: nothing is taken from the ports. -/
theorem nothingOfferedChangesNothing : Obligations.NothingOfferedChangesNothing :=
  fun _ hin => step_quiet (by simp [fetch, hin])

/-- R240: the assertion of `rst`. -/
theorem step_assertReset {s : State} {rest : List Event} (hin : s.inputs = .assertReset :: rest) :
    step s = .next { s with inputs := rest, rst := true, resp := none } :=
  step_quiet (by simp [fetch, hin])

/-- R240: while `rst` is asserted the word of a transaction is not decoded. -/
theorem step_in_reset {s : State} {w : PortWord} {txFail : Bool} {rest : List Event} (hrst : s.rst = true)
    (hin : s.inputs = .transaction w txFail :: rest) : step s = .next { s with inputs := rest, resp := none } :=
  step_quiet (by simp [fetch, hin, hrst])

/-- Settles O54: the assertion, and a transaction offered while it lasts. -/
theorem nothingIsAcceptedInReset : Obligations.NothingIsAcceptedInReset :=
  ⟨fun _ _ => step_assertReset, fun _ _ _ _ => step_in_reset⟩

theorem step_releaseReset {s : State} {cfgs : List SlotConfig} {rest : List Event}
    (hin : s.inputs = .releaseReset cfgs :: rest) : step s = .next ({ s with inputs := rest }.releaseReset cfgs) :=
  step_quiet (by simp [fetch, hin])

/-- R240, R241: with configuration inputs for every slot, the release leaves nothing of the registry it finds. -/
theorem releaseReset_eq_resetWith {s : State} {cfgs : List SlotConfig} (hlen : cfgs.length = s.nmotor) :
    s.releaseReset cfgs = { State.resetWith s.par cfgs with inputs := s.inputs, txFail := s.txFail } := by
  have hmotors : s.motors.mapIdx (fun k m => Motor.reset s.par.nreg (cfgs.getD k m.cfg)) =
      cfgs.map (Motor.reset s.par.nreg) := by
    refine List.ext_getElem (by simpa [State.nmotor] using hlen.symm) fun k _ hk => ?_
    have hcfg : k < cfgs.length := by simpa using hk
    simp [hcfg]
  rw [State.releaseReset, hmotors]
  rfl

/-- Settles O53: a release is a reset with the configuration inputs sampled then. -/
theorem releaseOfResetZeroesEverySlot : Obligations.ReleaseOfResetZeroesEverySlot := by
  intro s cfgs rest hin hlen
  exact (step_releaseReset hin).trans (congrArg _ (releaseReset_eq_resetWith hlen))

/-! ## Decoded feedback (R245) -/

/-- R112 for a usable limit: raw 0 decodes to its negative, which has the pattern of neither zero. -/
theorem quantDecode_zero_of_usable {lim span : F32} {bits : Byte} (h1 : 1 ≤ bits.toNat) (h16 : bits.toNat ≤ 16)
    (hlim : usableLimit lim) (hspan : fsub lim (fneg lim) = some span) (hfin : isFinite span = true) :
    quantDecode 0 (fneg lim) lim bits = fneg lim ∧ fneg lim ≠ 0 := by
  obtain ⟨hlimfin, hpos⟩ := hlim
  obtain ⟨-, hnan, hpos⟩ := flt_iff.1 hpos
  have hneg : fscaled (fneg lim) < 0 := by
    have hzero : fscaled 0 = 0 := by decide
    rw [fscaled_fneg]
    omega
  have hne {z : F32} (hz : fscaled z = 0) : fneg lim ≠ z := by
    rintro rfl
    omega
  have hlt : flt (fneg lim) lim = true := flt_iff.2 ⟨by rwa [isNaN_fneg], hnan, by rw [fscaled_fneg] at *; omega⟩
  have hdecode := qdecOfZeroIsTheMinimum _ _ _ _ h1 h16 (by rwa [isFinite_fneg]) hlimfin hlt hspan hfin
  rw [if_neg (hne (by decide))] at hdecode
  exact ⟨hdecode, hne (by decide)⟩

/-- Settles O56: a raw 0 decodes to the lower limit of its quantity. -/
theorem decodedFeedbackDiffersFromReset : Obligations.DecodedFeedbackDiffersFromReset := by
  constructor
  · intro cfg data span hlim hspan hfin hb1 hb2
    have hraw : cutRawPos data = 0 := by rw [cutRawPos, hb1, hb2]; rfl
    obtain ⟨hpos, hne⟩ := quantDecode_zero_of_usable (bits := 16) (by decide) (by decide) hlim hspan hfin
    have hfb : (feedbackOf cfg data).pos = fneg cfg.pMax := by
      rw [← hpos, feedbackOf, hraw]
      rfl
    exact ⟨hraw, hfb, hfb ▸ hne, rfl⟩
  · intro s k m data v t hlims hm hv hvfin ht htfin hb3 hb4 hb5
    have hlim := hlims m (List.mem_of_getElem? hm)
    have hrawVel : cutRawVel data = 0 := by rw [cutRawVel, hb3, hb4]; rfl
    have hrawTor : cutRawTor data = 0 := by rw [cutRawTor, hb4, hb5]; rfl
    obtain ⟨hvel, hvne⟩ := quantDecode_zero_of_usable (bits := 12) (by decide) (by decide) hlim.vMax hv hvfin
    obtain ⟨htor, htne⟩ := quantDecode_zero_of_usable (bits := 12) (by decide) (by decide) hlim.tMax ht htfin
    have hfbVel : (feedbackOf m.cfg data).vel = fneg m.cfg.vMax := by
      rw [← hvel, feedbackOf, hrawVel]
      rfl
    have hfbTor : (feedbackOf m.cfg data).tor = fneg m.cfg.tMax := by
      rw [← htor, feedbackOf, hrawTor]
      rfl
    exact ⟨hfbVel, hfbVel ▸ hvne, hfbTor, hfbTor ▸ htne⟩

end Sys2Proof.Machine
end

section
/-! SUPPORT. What an operation does, as a function of the parameters and of the record of the slot it names (46_registry.md
R46, R200): the record it writes, its result, its conditions and its frame. The transport's answer enters the status word
alone (60_exceptions.md R212). -/

namespace Sys2Proof.Machine

/-! ## Completions -/

/-- What a completed operation leaves: the record of its slot, where it writes one, and its outputs. `flags` holds the
conditions it meets by itself, without `tx_err`. -/
structure Completion where
  written : Option Motor := none
  result : Option Word := some 0
  flags : Flags := {}
  frame : Option Frame := none

namespace Completion
variable (c d : Completion)

/-- R216: `refuse`. -/
def refused : Completion := { flags := { ill := true } }

/-- R215: `drop`. -/
def dropped : Completion := { result := none, flags := { drop := true } }

/-- The outputs, with the transport's answer to the frame, if there is one (R212). -/
def response (txFail : Bool) : Response :=
  ⟨c.result, statusWord { c.flags with txErr := c.frame.isSome && txFail }, c.frame⟩

/-- The registry, with the record of the slot written. -/
def motors (slot : Option Nat) (ms : List Motor) : List Motor :=
  c.written.elim ms fun m => slot.elim ms fun k => ms.set k m

/-- The state an operation on a slot leaves. -/
def perform (slot : Option Nat) (s : State) : State :=
  { s with motors := c.motors slot s.motors, resp := some (c.response s.txFail) }

/-- Writes to different slots commute. -/
theorem motors_comm {k l : Nat} (hkl : k ≠ l) (ms : List Motor) :
    d.motors (some l) (c.motors (some k) ms) = c.motors (some k) (d.motors (some l) ms) := by
  cases hc : c.written <;> cases hd : d.written <;> simp [motors, hc, hd, List.set_comm _ _ hkl]

end Completion

/-- The answer of an operation that completes, or finds no entry of `REG_TABLE` (log 13). -/
def answerOf (slot : Option Nat) (s : State) : Option Completion → Answer
  | some c => .next (c.perform slot s)
  | none => .fault .noRegisterEntry

theorem answerOf_eq_next {slot : Option Nat} {s t : State} {o : Option Completion} (h : answerOf slot s o = .next t) :
    ∃ c, o = some c ∧ t = c.perform slot s := by
  cases o with
  | none => cases h
  | some c => exact ⟨c, rfl, (Host.Outcome.next.inj h).symm⟩

/-! ## The completion of each operation -/

/-- The `ovf` of a control frame (R122, R124, R126, R129): two modes copy patterns and cannot overflow. -/
def controlOvf (p : Params) (m : Motor) : Mode → Bool
  | .mit => (mitFields p m.cfg m.tgt).2
  | .position => false
  | .speed => false
  | .positionSpeedCurrent => (pscFields m.tgt).2

/-- `CTRL` (R192): the frame of the slot's mode. -/
def controlCompletion (p : Params) (m : Motor) : Completion :=
  { flags := { ovf := controlOvf p m m.mode }, frame := some (controlFrame p m m.mode) }

/-- A received frame without a condition: the feedback stage alone (R154). -/
def feedbackCompletion (m : Motor) (data : Payload) : Completion :=
  { written := some (feedbackStage m data), result := none }

/-- A read-response in `Reading(n + 1)`, whose entry is `e` (R178, R179). -/
def readingCompletion (p : Params) (m : Motor) (data : Payload) (n : Nat) (e : RegEntry) : Completion :=
  if data.b3 = e.rid then
    { written := some { m with
        fb := feedbackOf m.cfg data
        cache := m.cache.set n (cutValue data)
        cursor := if n + 1 < p.nreg then n + 2 else 0 }
      result := none
      flags := { adv := true }
      frame := (p.regTable[n + 1]?).map (readRequest p m) }
  else { feedbackCompletion m data with flags := { desync := true } }

/-- A frame of the slot with record `m` (R178 to R180, R193): in `Reading(n + 1)` a read-response needs the entry of that
state. -/
def receivedCompletion (p : Params) (m : Motor) (data : Payload) : Option Completion :=
  if data.b2 = 0x33 then
    match m.cursor with
    | 0 => some (feedbackCompletion m data)
    | n + 1 => (p.regTable[n]?).map (readingCompletion p m data n)
  else some (feedbackCompletion m data)

/-- A command on a slot: refused if the slot has no record (R89 (b)). -/
def onRecord (record : Option Motor) (run : Motor → Option Completion) : Option Completion :=
  record.elim (some .refused) run

/-- What an operation does, by the parameters and the record of the slot it names, if that slot is there. -/
def completion (p : Params) (record : Option Motor) : Instr → Option Completion
  | .qenc value lo hi bits => some <|
    if illegalWidth bits then .refused
    else
      { result := some (BitVec.ofNat 32 (quantEncode value lo hi bits).1)
        flags := { ovf := (quantEncode value lo hi bits).2 } }
  | .qdec raw lo hi bits => some <|
    if illegalWidth bits then .refused
    else if maxCode bits < raw.toNat then .refused
    else { result := some (quantDecode raw lo hi bits) }
  | .setmode _ code => onRecord record fun m => some <|
    (modeOfCode code).elim .refused fun mode => { written := some (m.withMode mode) }
  | .settgt _ pos vel kp kd torque current => onRecord record fun m =>
    some { written := some (m.withTgt ⟨pos, vel, kp, kd, torque, current⟩) }
  | .ctrlMit _ | .ctrlPos _ | .ctrlSpd _ | .ctrlPsc _ => onRecord record fun m => some (controlCompletion p m)
  | .clrerr _ => onRecord record fun m => some { frame := some (modeFrame p m 8 (sentinelPayload 0xFB)) }
  | .enable _ => onRecord record fun m => some { frame := some (modeFrame p m 8 (sentinelPayload 0xFC)) }
  | .disable _ => onRecord record fun m =>
    some { written := some (m.withTgt Target.zero), frame := some (modeFrame p m 8 (sentinelPayload 0xFD)) }
  | .savezero _ => onRecord record fun m => some { frame := some (modeFrame p m 8 (sentinelPayload 0xFE)) }
  | .regrd _ rid => onRecord record fun m => some { frame := some (mgmtFrame p 4 (readPayload m.cfg.id rid)) }
  | .regwr _ rid data => onRecord record fun m =>
    some { frame := some (mgmtFrame p 8 (writePayload m.cfg.id rid data)) }
  | .regsave _ => onRecord record fun m => some { frame := some (mgmtFrame p 4 (savePayload m.cfg.id)) }
  | .scanstart _ => onRecord record fun m => (p.regTable[0]?).map fun first =>
    { written := some (m.withCursor 1), frame := some (readRequest p m first) }
  | .rxFb _ data | .rxRsp _ data => record.elim (some .dropped) fun m => receivedCompletion p m data

/-! ## An operation is its completion -/

theorem completion_absent {i : Instr} {slot : Byte} (p : Params) (hslot : slotOperand i = some slot) :
    completion p none i = some .refused := by
  cases i with
  | qenc | qdec | rxFb | rxRsp => cases hslot
  | _ => rfl

/-- R192: the encoder of a mode emits its frame with its `ovf`. -/
theorem sendControl_eq_perform (slot : Option Nat) (m : Motor) (s : State) (mode : Mode) : sendControl m s mode =
    Completion.perform { flags := { ovf := controlOvf s.par m mode }, frame := some (controlFrame s.par m mode) }
      slot s := by
  cases mode <;> rfl

/-- R95, R192: whichever of the four operations `CTRL` is written as. -/
theorem dispatchControl_eq {slot : Byte} {s : State} {m : Motor} (hm : s.motors[slot.toNat]? = some m) :
    dispatchControl slot s = .next ((controlCompletion s.par m).perform (some slot.toNat) s) := by
  rw [← exec_ctrlInstr m.mode, exec_ctrl hm rfl, sendControl_eq_perform (some slot.toNat)]
  rfl

/-- A command on a slot that is there, in the order of the table (R72). -/
theorem exec_present {i : Instr} {slot : Byte} {s : State} {m : Motor} (hslot : slotOperand i = some slot)
    (hm : s.motors[slot.toNat]? = some m) :
    exec i s = answerOf (some slot.toNat) s (completion s.par (some m) i) := by
  cases i with
  | qenc | qdec | rxFb | rxRsp => cases hslot
  | setmode slot code =>
    cases hslot
    cases hcode : modeOfCode code with
    | none =>
      rw [exec, execSetmode, onSlot_present hm, completion, onRecord, Option.elim_some, hcode]
      rfl
    | some mode =>
      rw [exec_setmode hm hcode, completion, onRecord, Option.elim_some, hcode]
      rfl
  | settgt slot pos vel kp kd torque current => cases hslot; exact exec_settgt pos vel kp kd torque current hm
  | ctrlMit | ctrlPos | ctrlSpd | ctrlPsc => cases hslot; exact dispatchControl_eq hm
  | clrerr => cases hslot; exact exec_clrerr hm
  | enable => cases hslot; exact exec_enable hm
  | disable => cases hslot; exact exec_disable hm
  | savezero => cases hslot; exact exec_savezero hm
  | regrd slot rid => cases hslot; exact exec_regrd rid hm
  | regwr slot rid data => cases hslot; exact exec_regwr rid data hm
  | regsave => cases hslot; exact exec_regsave hm
  | scanstart slot =>
    cases hslot
    rw [completion, onRecord, Option.elim_some]
    cases hfirst : s.par.regTable[0]? with
    | none => simp [exec, execScanstart, onSlot_present hm, regEntry_succ, hfirst, answerOf]
    | some first => exact exec_scanstart hm hfirst

/-- A command that names a slot. -/
theorem exec_command {i : Instr} {slot : Byte} {s : State} (hslot : slotOperand i = some slot) :
    exec i s = answerOf (some slot.toNat) s (completion s.par s.motors[slot.toNat]? i) := by
  cases hm : s.motors[slot.toNat]? with
  | some m => exact exec_present hslot hm
  | none =>
    rw [exec_slot_absent hslot hm, completion_absent s.par hslot]
    rfl

/-- The two codec operations, which name no slot. -/
theorem exec_codec {i : Instr} (slot : Option Nat) (record : Option Motor) (s : State) (hslot : slotOperand i = none)
    (hid : receivedId i = none) : exec i s = answerOf slot s (completion s.par record i) := by
  cases i with
  | qenc value lo hi bits =>
    simp only [exec, execQenc, completion]
    split <;> rfl
  | qdec raw lo hi bits =>
    simp only [exec, execQdec, completion]
    split
    · rfl
    · split <;> rfl
  | rxFb | rxRsp => cases hid
  | _ => cases hslot

theorem receivedCompletion_reading (p : Params) {m : Motor} {data : Payload} {n : Nat} (htag : data.b2 = 0x33)
    (hcur : m.cursor = n + 1) :
    receivedCompletion p m data = (p.regTable[n]?).map (readingCompletion p m data n) := by
  simp [receivedCompletion, htag, hcur]

theorem receivedCompletion_idle (p : Params) {m : Motor} {data : Payload} (hidle : data.b2 = 0x33 → m.cursor = 0) :
    receivedCompletion p m data = some (feedbackCompletion m data) := by
  unfold receivedCompletion
  split
  · rw [hidle ‹_›]
  · rfl

/-- R178, R179: a read-response in `Reading(n + 1)`, expected or not. -/
theorem exec_rxRsp_eq_reading {rxId : Id16} {data : Payload} {s : State} {k n : Nat} {m : Motor} {e : RegEntry}
    (hk : rxSlot s rxId = some k) (hm : s.motors[k]? = some m) (hcur : m.cursor = n + 1)
    (he : s.par.regTable[n]? = some e) (htag : data.b2 = 0x33) :
    exec (.rxRsp rxId data) s = .next ((readingCompletion s.par m data n e).perform (some k) s) := by
  by_cases hrid : data.b3 = e.rid
  · rw [exec_rxRsp_expected hk hm hcur he htag hrid, readingCompletion, if_pos hrid, Completion.perform,
      Completion.response, Option.isSome_map]
    rfl
  · rw [exec_rxRsp_mismatched hk hm hcur he htag hrid, readingCompletion, if_neg hrid]
    rfl

/-- Log 13: a read-response in a state of the sequencer that has no entry. -/
theorem exec_rxRsp_no_entry {rxId : Id16} {data : Payload} {s : State} {k n : Nat} {m : Motor}
    (hk : rxSlot s rxId = some k) (hm : s.motors[k]? = some m) (hcur : m.cursor = n + 1)
    (he : s.par.regTable[n]? = none) (htag : data.b2 = 0x33) :
    exec (.rxRsp rxId data) s = .fault .noRegisterEntry := by
  have hcur' : (feedbackStage m data).cursor = n + 1 := hcur
  simp [exec_rxRsp hk hm htag, registerStage, hcur', regEntry_succ, he]

/-- The RX transaction of a slot that is there (R193), in each state of its sequencer. -/
theorem receiveFrame_owned {rxId : Id16} {data : Payload} {s : State} {k : Nat} {m : Motor}
    (hk : rxSlot s rxId = some k) (hm : s.motors[k]? = some m) :
    receiveFrame rxId data s = answerOf (some k) s (receivedCompletion s.par m data) := by
  by_cases htag : data.b2 = 0x33
  case neg =>
    rw [receivedCompletion_idle s.par fun h => absurd h htag]
    exact exec_rxFb hk hm htag
  cases hcur : m.cursor with
  | zero =>
    rw [receivedCompletion_idle s.par fun _ => hcur]
    exact exec_rxRsp_idle hk hm hcur htag
  | succ n =>
    rw [receivedCompletion_reading s.par htag hcur]
    cases he : s.par.regTable[n]? with
    | none => exact exec_rxRsp_no_entry hk hm hcur he htag
    | some e => exact exec_rxRsp_eq_reading hk hm hcur he htag

/-- The record of a slot, where a slot is named and is there. -/
def State.recordOf (s : State) (slot : Option Nat) : Option Motor := slot.bind fun k => s.motors[k]?

/-- `slot` is the slot operation `i` names, where it names one. -/
structure ActsOn (s : State) (i : Instr) (slot : Option Nat) : Prop where
  command : ∀ operand, slotOperand i = some operand → slot = some operand.toNat
  received : ∀ rxId, receivedId i = some rxId → slot = rxSlot s rxId

theorem receiveFrame_eq (rxId : Id16) (data : Payload) (s : State) : receiveFrame rxId data s =
    answerOf (rxSlot s rxId) s (completion s.par (s.recordOf (rxSlot s rxId)) (.rxFb rxId data)) := by
  cases hk : rxSlot s rxId with
  | none => exact receiveFrame_unowned data hk
  | some k =>
    have hm : s.motors[k]? = some (s.motors[k]'(rxSlot_lt hk)) := List.getElem?_eq_getElem (rxSlot_lt hk)
    rw [receiveFrame_owned hk hm, State.recordOf, Option.bind_some, hm]
    rfl

/-- R46, R200: an operation depends on the parameters, the record of the slot it names and the transport's answer, and it
writes that record and the outputs. -/
theorem exec_eq_answerOf {i : Instr} {s : State} {slot : Option Nat} (h : ActsOn s i slot) :
    exec i s = answerOf slot s (completion s.par (s.recordOf slot) i) := by
  cases hslot : slotOperand i with
  | some operand =>
    obtain rfl := h.command operand hslot
    exact exec_command hslot
  | none =>
    cases hid : receivedId i with
    | none => exact exec_codec slot _ s hslot hid
    | some rxId =>
      obtain rfl := h.received rxId hid
      cases i with
      | rxFb | rxRsp => cases hid; exact receiveFrame_eq ..
      | _ => cases hid

theorem actsOn_namedSlot (s : State) (i : Instr) : ActsOn s i (namedSlot s i) where
  command _ h := namedSlot_of_slotOperand h s
  received rxId h := by
    cases i with
    | rxFb | rxRsp => cases h; rfl
    | _ => cases h

/-- The completion of an operation that answers a next state. -/
theorem exec_completes {i : Instr} {s t : State} (h : exec i s = .next t) :
    ∃ c, completion s.par (s.recordOf (namedSlot s i)) i = some c ∧ t = c.perform (namedSlot s i) s :=
  answerOf_eq_next ((exec_eq_answerOf (actsOn_namedSlot s i)).symm.trans h)

end Sys2Proof.Machine
end

section
/-! SUPPORT. The conditions of an operation and its outputs (60_exceptions.md R210 to R216): how each kind of operation
completes, and which bits of the status word that sets. -/

namespace Sys2Proof.Machine

/-! ## Bits of the status word (R210) -/

/-- Bits 0, 1 and 2. -/
theorem statusWord_bits (f : Flags) : (statusWord f).getLsbD 0 = f.ill ∧ (statusWord f).getLsbD 1 = f.ovf ∧
    (statusWord f).getLsbD 2 = f.txErr := by
  have hbits : ∀ ill ovf txErr drop desync adv : Bool,
      (statusWord ⟨ill, ovf, txErr, drop, desync, adv⟩).getLsbD 0 = ill ∧
      (statusWord ⟨ill, ovf, txErr, drop, desync, adv⟩).getLsbD 1 = ovf ∧
      (statusWord ⟨ill, ovf, txErr, drop, desync, adv⟩).getLsbD 2 = txErr := by decide
  exact hbits f.ill f.ovf f.txErr f.drop f.desync f.adv

/-- `tx_err` is bit 2, and no other condition touches it. -/
theorem statusWord_txErr (f : Flags) (emitted : Bool) : statusWord { f with txErr := emitted && true } =
    statusWord { f with txErr := emitted && false } ||| if emitted then 0x04 else 0x00 := by
  have hbit : ∀ ill ovf drop desync adv emitted : Bool, statusWord ⟨ill, ovf, emitted && true, drop, desync, adv⟩ =
      statusWord ⟨ill, ovf, emitted && false, drop, desync, adv⟩ ||| if emitted then 0x04 else 0x00 := by decide
  exact hbit f.ill f.ovf f.drop f.desync f.adv emitted

/-- The status of a command that is not refused. -/
theorem statusWord_emit_mem (ovf txErr : Bool) :
    statusWord { ovf := ovf, txErr := txErr } ∈ ([0x00, 0x01, 0x02, 0x04, 0x06] : List (BitVec 8)) := by
  cases ovf <;> cases txErr <;> decide

/-- The status of a received frame that advances the sequencer. -/
theorem statusWord_adv_mem (txErr : Bool) :
    statusWord { adv := true, txErr := txErr } ∈ ([0x00, 0x08, 0x10, 0x20, 0x24] : List (BitVec 8)) := by
  cases txErr <;> decide

/-! ## The transport's answer (R212) -/

/-- Settles O43: the completion does not depend on the answer, which enters its response as `tx_err`. -/
theorem transportAnswerOnlySetsTxErr : Obligations.TransportAnswerOnlySetsTxErr := by
  intro i s t h
  obtain ⟨c, hc, rfl⟩ := exec_completes h
  have hfails := exec_eq_answerOf (actsOn_namedSlot { s with txFail := true } i)
  refine ⟨c.perform (namedSlot s i) { s with txFail := true }, c.response false, c.response true, ?_, rfl, rfl, rfl, rfl,
    rfl, rfl, statusWord_txErr c.flags c.frame.isSome⟩
  exact hfails.trans (congrArg (answerOf _ _) hc)

/-! ## How a command completes -/

theorem illegalWidth_eq_not_legalWidth (bits : Byte) : illegalWidth bits = !legalWidth bits := by
  rw [Bool.eq_iff_iff, illegalWidth_iff]
  simp [legalWidth]

/-- The ways a command can complete: refused, for its operands or for want of its slot; `QENC`, and `CTRL`, which can set
`ovf`; and the rest without a condition, with a frame only from an operation that names a slot. -/
inductive CommandCompletes (p : Params) (record : Option Motor) : Instr → Completion → Prop where
  | refused {i : Instr} (illegal : i.operandsLegal = false ∨ ((slotOperand i).isSome ∧ record = none)) :
      CommandCompletes p record i .refused
  | qenc {value lo hi : F32} {bits : Byte} (code : Word) (ovf : Bool) :
      CommandCompletes p record (.qenc value lo hi bits) { result := some code, flags := { ovf := ovf } }
  | control {slot : Byte} {m : Motor} (mode : Mode) (present : record = some m) :
      CommandCompletes p record (ctrlInstr mode slot) (controlCompletion p m)
  | silent {i : Instr} (written : Option Motor) (result : Word) :
      CommandCompletes p record i { written := written, result := some result }
  | sent {i : Instr} {slot : Byte} (names : slotOperand i = some slot) (written : Option Motor) (frame : Frame) :
      CommandCompletes p record i { written := written, frame := some frame }

/-- R89 (b): a command on a slot runs on its record or is refused. -/
theorem onRecord_completes {p : Params} {record : Option Motor} {i : Instr} {slot : Byte}
    {run : Motor → Option Completion} {c : Completion} (names : slotOperand i = some slot)
    (h : onRecord record run = some c)
    (hrun : ∀ m, record = some m → run m = some c → CommandCompletes p record i c) : CommandCompletes p record i c := by
  cases hrecord : record with
  | none =>
    subst hrecord
    cases h
    exact .refused (.inr ⟨by rw [names]; rfl, rfl⟩)
  | some m =>
    subst hrecord
    exact hrun m rfl h

theorem completion_command {p : Params} {record : Option Motor} {i : Instr} {c : Completion}
    (hid : receivedId i = none) (h : completion p record i = some c) : CommandCompletes p record i c := by
  cases i with
  | rxFb | rxRsp => cases hid
  | qenc value lo hi bits =>
    cases h
    split
    · exact .refused (.inl (by simp_all [Instr.operandsLegal, illegalWidth_eq_not_legalWidth]))
    · exact .qenc _ _
  | qdec raw lo hi bits =>
    cases h
    split_ifs with hwidth hraw
    · exact .refused (.inl (by simp_all [Instr.operandsLegal, illegalWidth_eq_not_legalWidth]))
    · exact .refused (.inl (by simp_all [Instr.operandsLegal, legalRaw, maxCode]))
    · exact .silent none _
  | setmode slot code =>
    refine onRecord_completes rfl h fun m _ hrun => ?_
    cases hrun
    cases hcode : modeOfCode code with
    | none =>
      refine .refused (.inl (Bool.eq_false_iff.2 fun hlegal => ?_))
      obtain ⟨mode, hmode, -⟩ := modeOfCode_legal (by simpa [Instr.operandsLegal] using hlegal)
      cases hcode.symm.trans hmode
    | some mode => exact .silent _ _
  | ctrlMit slot => exact onRecord_completes rfl h fun m hm hrun => by cases hrun; exact .control .mit hm
  | ctrlPos slot => exact onRecord_completes rfl h fun m hm hrun => by cases hrun; exact .control .position hm
  | ctrlSpd slot => exact onRecord_completes rfl h fun m hm hrun => by cases hrun; exact .control .speed hm
  | ctrlPsc slot =>
    exact onRecord_completes rfl h fun m hm hrun => by cases hrun; exact .control .positionSpeedCurrent hm
  | settgt => exact onRecord_completes rfl h fun m _ hrun => by cases hrun; exact .silent _ _
  | scanstart slot =>
    refine onRecord_completes rfl h fun m _ hrun => ?_
    obtain ⟨first, -, rfl⟩ := Option.map_eq_some_iff.1 hrun
    exact .sent rfl _ _
  | clrerr | enable | disable | savezero | regrd | regwr | regsave =>
    exact onRecord_completes rfl h fun m _ hrun => by cases hrun; exact .sent rfl _ _

/-! ## How a received frame completes -/

/-- The ways an RX transaction can complete: dropped; the feedback stage without a condition, or `desync`; an advance,
which alone can emit. -/
inductive RxCompletes : Completion → Prop where
  | dropped : RxCompletes .dropped
  | feedback (m : Motor) (data : Payload) : RxCompletes (feedbackCompletion m data)
  | desync (m : Motor) (data : Payload) : RxCompletes { feedbackCompletion m data with flags := { desync := true } }
  | advanced (written : Motor) (frame : Option Frame) :
      RxCompletes { written := some written, result := none, flags := { adv := true }, frame := frame }

theorem readingCompletion_completes (p : Params) (m : Motor) (data : Payload) (n : Nat) (e : RegEntry) :
    RxCompletes (readingCompletion p m data n e) := by
  unfold readingCompletion
  split
  · exact .advanced _ _
  · exact .desync m data

theorem receivedCompletion_completes {p : Params} {m : Motor} {data : Payload} {c : Completion}
    (h : receivedCompletion p m data = some c) : RxCompletes c := by
  by_cases hidle : data.b2 = 0x33 → m.cursor = 0
  · rw [receivedCompletion_idle p hidle] at h
    cases h
    exact .feedback m data
  · obtain ⟨htag, hcur⟩ := Classical.not_imp.1 hidle
    obtain ⟨n, hn⟩ := Nat.exists_eq_succ_of_ne_zero hcur
    rw [receivedCompletion_reading p htag hn] at h
    obtain ⟨e, -, rfl⟩ := Option.map_eq_some_iff.1 h
    exact readingCompletion_completes p m data n e

theorem completion_received {p : Params} {record : Option Motor} {i : Instr} {rxId : Id16} {c : Completion}
    (hid : receivedId i = some rxId) (h : completion p record i = some c) : RxCompletes c := by
  cases i with
  | rxFb | rxRsp =>
    cases record with
    | none => cases h; exact .dropped
    | some m => exact receivedCompletion_completes h
  | _ => cases hid

/-! ## The status words that occur (R211) -/

/-- The status of a response, bit by bit. -/
theorem Completion.response_bits (c : Completion) (txFail : Bool) :
    (c.response txFail).status.getLsbD 0 = c.flags.ill ∧ (c.response txFail).status.getLsbD 1 = c.flags.ovf ∧
    (c.response txFail).status.getLsbD 2 = (c.frame.isSome && txFail) :=
  statusWord_bits _

/-- `tx_err` comes with a frame only. -/
theorem Completion.frame_isSome_of_txErr {c : Completion} {txFail : Bool}
    (h : (c.response txFail).status.getLsbD 2 = true) : c.frame.isSome = true := by
  obtain ⟨-, -, htxErr⟩ := c.response_bits txFail
  exact (Bool.and_eq_true_iff.1 (htxErr.symm.trans h)).1

/-- R122, R129: only two modes saturate. -/
theorem controlOvf_mode {p : Params} {m : Motor} (h : controlOvf p m m.mode = true) :
    m.mode = .mit ∨ m.mode = .positionSpeedCurrent := by
  cases hmode : m.mode with
  | mit => exact .inl rfl
  | positionSpeedCurrent => exact .inr rfl
  | position | speed => rw [hmode] at h; cases h

theorem ctrlInstr_eq (mode : Mode) (slot : Byte) : ctrlInstr mode slot = .ctrlMit slot ∨
    ctrlInstr mode slot = .ctrlPos slot ∨ ctrlInstr mode slot = .ctrlSpd slot ∨ ctrlInstr mode slot = .ctrlPsc slot := by
  cases mode <;> simp [ctrlInstr]

theorem slotOperand_ctrlInstr (mode : Mode) (slot : Byte) : slotOperand (ctrlInstr mode slot) = some slot := by
  cases mode <;> rfl

namespace CommandCompletes
variable {p : Params} {record : Option Motor} {i : Instr} {c : Completion}

theorem status_mem (h : CommandCompletes p record i c) (txFail : Bool) :
    (c.response txFail).status ∈ ([0x00, 0x01, 0x02, 0x04, 0x06] : List (BitVec 8)) := by
  cases h with
  | refused => exact (by decide : statusWord { ill := true } ∈ ([0x00, 0x01, 0x02, 0x04, 0x06] : List (BitVec 8)))
  | qenc | control | silent | sent => exact statusWord_emit_mem _ _

/-- The operations that can overflow. -/
theorem ovf (h : CommandCompletes p record i c) (hovf : c.flags.ovf = true) :
    (∃ v lo hi b, i = .qenc v lo hi b) ∨
    ∃ slot m, (i = .ctrlMit slot ∨ i = .ctrlPos slot ∨ i = .ctrlSpd slot ∨ i = .ctrlPsc slot) ∧
      slotOperand i = some slot ∧ record = some m ∧ (m.mode = .mit ∨ m.mode = .positionSpeedCurrent) := by
  cases h with
  | qenc => exact .inl ⟨_, _, _, _, rfl⟩
  | @control slot m mode hm =>
    exact .inr ⟨slot, m, ctrlInstr_eq mode slot, slotOperand_ctrlInstr mode slot, hm, controlOvf_mode hovf⟩
  | refused | silent | sent => cases hovf

/-- A frame comes from an operation that names a slot. -/
theorem names_slot (h : CommandCompletes p record i c) (hframe : c.frame.isSome = true) :
    (slotOperand i).isSome = true := by
  cases h with
  | @control slot m mode => rw [slotOperand_ctrlInstr]; rfl
  | sent names => rw [names]; rfl
  | refused | qenc | silent => cases hframe

/-- R216: a command with legal operands, on a slot that is there if it names one, is not refused. -/
theorem not_refused (h : CommandCompletes p record i c) (hlegal : i.operandsLegal = true)
    (hpresent : (slotOperand i).isSome = true → record ≠ none) : c.flags.ill = false ∧ c.result.isSome = true := by
  cases h with
  | refused illegal =>
    rcases illegal with hillegal | ⟨hnames, habsent⟩
    · cases hillegal.symm.trans hlegal
    · exact absurd habsent (hpresent hnames)
  | qenc | control | silent | sent => exact ⟨rfl, rfl⟩

end CommandCompletes

theorem RxCompletes.status_mem {c : Completion} (h : RxCompletes c) (txFail : Bool) :
    (c.response txFail).status ∈ ([0x00, 0x08, 0x10, 0x20, 0x24] : List (BitVec 8)) := by
  cases h with
  | dropped => exact (by decide : statusWord { drop := true } ∈ ([0x00, 0x08, 0x10, 0x20, 0x24] : List (BitVec 8)))
  | feedback => exact (by decide : statusWord {} ∈ ([0x00, 0x08, 0x10, 0x20, 0x24] : List (BitVec 8)))
  | desync => exact (by decide : statusWord { desync := true } ∈ ([0x00, 0x08, 0x10, 0x20, 0x24] : List (BitVec 8)))
  | advanced => exact statusWord_adv_mem _

/-- Settles O42: by the ways a command and a received frame complete. -/
theorem statusWordsThatOccur : Obligations.StatusWordsThatOccur := by
  intro i s t h
  obtain ⟨c, hc, rfl⟩ := exec_completes h
  refine ⟨c.response s.txFail, rfl, ?_⟩
  cases hid : receivedId i with
  | some rxId => exact ⟨(completion_received hid hc).status_mem _, Completion.frame_isSome_of_txErr⟩
  | none =>
    have hcommand := completion_command hid hc
    obtain ⟨-, hovfBit, -⟩ := c.response_bits s.txFail
    refine ⟨hcommand.status_mem _, fun hovf => ?_, fun htxErr => ?_⟩
    · rcases hcommand.ovf (hovfBit.symm.trans hovf) with hqenc | ⟨slot, m, hctrl, hslot, hm, hmode⟩
      · exact .inl hqenc
      · rw [namedSlot_of_slotOperand hslot] at hm
        exact .inr ⟨slot, m, hctrl, hm, hmode⟩
    · have hframe := Completion.frame_isSome_of_txErr htxErr
      exact ⟨hframe, hcommand.names_slot hframe⟩

end Sys2Proof.Machine
end

section
/-! SUPPORT. Which transactions complete (60_exceptions.md R216, R223): every command with a register to read, every frame
where the sequencer is in its range, so every transaction in a state that meets the invariant. -/

namespace Sys2Proof.Machine

theorem exec_of_completion {i : Instr} {s : State} {c : Completion}
    (h : completion s.par (s.recordOf (namedSlot s i)) i = some c) : exec i s = .next (c.perform (namedSlot s i) s) :=
  (exec_eq_answerOf (actsOn_namedSlot s i)).trans (congrArg (answerOf _ _) h)

/-- R5: a command needs an entry of `REG_TABLE` at most. -/
theorem completion_command_exists {p : Params} (record : Option Motor) {i : Instr} (hid : receivedId i = none)
    (hreg : 1 ≤ p.nreg) : ∃ c, completion p record i = some c := by
  cases i with
  | rxFb | rxRsp => cases hid
  | qenc | qdec => exact ⟨_, rfl⟩
  | scanstart slot =>
    cases record with
    | none => exact ⟨_, rfl⟩
    | some m => exact ⟨_, Option.map_eq_some_iff.2 ⟨_, List.getElem?_eq_getElem hreg, rfl⟩⟩
  | _ => cases record <;> exact ⟨_, rfl⟩

/-- R36: a frame needs the entry of the state its slot's sequencer is in. -/
theorem completion_received_exists {p : Params} {record : Option Motor} {i : Instr} {rxId : Id16}
    (hid : receivedId i = some rxId) (hcur : ∀ m, record = some m → m.cursor ≤ p.nreg) :
    ∃ c, completion p record i = some c := by
  have received (m : Motor) (data : Payload) (hle : m.cursor ≤ p.nreg) : ∃ c, receivedCompletion p m data = some c := by
    by_cases hidle : data.b2 = 0x33 → m.cursor = 0
    · exact ⟨_, receivedCompletion_idle p hidle⟩
    · obtain ⟨htag, hne⟩ := Classical.not_imp.1 hidle
      obtain ⟨n, hn⟩ := Nat.exists_eq_succ_of_ne_zero hne
      have hlt : n < p.regTable.length := by
        unfold Params.nreg at hle
        omega
      rw [receivedCompletion_reading p htag hn]
      exact ⟨_, Option.map_eq_some_iff.2 ⟨_, List.getElem?_eq_getElem hlt, rfl⟩⟩
  cases i with
  | rxFb | rxRsp =>
    cases record with
    | none => exact ⟨_, rfl⟩
    | some m => exact received m _ (hcur m rfl)
  | _ => cases hid

/-- R223: an operation in a state that meets the invariant. -/
theorem exec_next_of_inv (i : Instr) {s : State} (hs : s.Inv) : ∃ t, exec i s = .next t := by
  have hcur (m : Motor) (hm : s.recordOf (namedSlot s i) = some m) : m.cursor ≤ s.par.nreg := by
    obtain ⟨k, -, hm⟩ := Option.bind_eq_some_iff.1 hm
    exact (hs.motor hm).cursor_le
  obtain ⟨c, hc⟩ : ∃ c, completion s.par (s.recordOf (namedSlot s i)) i = some c := by
    cases hid : receivedId i with
    | none => exact completion_command_exists _ hid hs.nreg_pos
    | some rxId => exact completion_received_exists hid hcur
  exact ⟨_, exec_of_completion hc⟩

/-- Settles O51, by what is offered; an operation is run in a state that still meets the invariant. -/
theorem invariantStatesNeverStop : Obligations.InvariantStatesNeverStop := by
  intro s hs
  cases hin : s.inputs with
  | nil => exact ⟨_, nothingOfferedChangesNothing s hin⟩
  | cons event rest =>
    cases event with
    | assertReset => exact ⟨_, step_assertReset hin⟩
    | releaseReset cfgs => exact ⟨_, step_releaseReset hin⟩
    | transaction w txFail =>
      cases hrst : s.rst with
      | true => exact ⟨_, step_in_reset hrst hin⟩
      | false =>
        cases hdec : decode (portMode s w) w with
        | rejected e => exact ⟨_, step_eq_rejectWord hin hrst hdec⟩
        | instr i =>
          obtain ⟨t, ht⟩ := exec_next_of_inv i (s := takeTransaction s rest txFail) (hs.congr rfl rfl)
          exact ⟨t, (step_eq_exec hin hrst hdec).trans ht⟩

/-! ## Legal commands (30_encoding.md R89) -/

/-- An answer that is an operation has legal operands. -/
def OperandsLegal : Decoded → Prop
  | .instr i => i.operandsLegal = true
  | .rejected _ => True

/-- One select code of the decoder's chain. -/
theorem OperandsLegal.ite {code : Prop} [Decidable code] {d d' : Decoded} (hd : code → OperandsLegal d)
    (hd' : OperandsLegal d') : OperandsLegal (if code then d else d') := by
  split
  · exact hd ‹_›
  · exact hd'

theorem operandsLegal_ctrlInstr (mode : Mode) (slot : Byte) : OperandsLegal (.instr (ctrlInstr mode slot)) := by
  cases mode <;> rfl

/-- R89 (c) to (e): of the thirteen select codes, in the order of the chain, three have operands that can be illegal. -/
theorem decodeCommand_operandsLegal (mode : Mode) {c : Command}
    (hwidth : c.op = 0x01 ∨ c.op = 0x02 → legalWidth (lowByte c.a3) = true)
    (hraw : c.op = 0x02 → legalRaw c.a0 (lowByte c.a3) = true) (hcode : c.op = 0x04 → (lowByte c.a0).toNat ≤ 3) :
    OperandsLegal (decodeCommand mode c) :=
  .ite (fun hqenc => hwidth (.inl hqenc)) <|
    .ite (fun hqdec => Bool.and_eq_true_iff.2 ⟨hwidth (.inr hqdec), hraw hqdec⟩) <|
    .ite (fun hsetmode => decide_eq_true (hcode hsetmode)) <|
    .ite (fun _ => rfl) <| .ite (fun _ => operandsLegal_ctrlInstr mode c.slot) <| .ite (fun _ => rfl) <|
    .ite (fun _ => rfl) <| .ite (fun _ => rfl) <| .ite (fun _ => rfl) <| .ite (fun _ => rfl) <| .ite (fun _ => rfl) <|
    .ite (fun _ => rfl) <| .ite (fun _ => rfl) trivial

/-- R89: a command that is not illegal names an operation with legal operands, on a slot that is there if it names one. -/
theorem decodeCommand_of_legal (mode : Mode) {s : State} {c : Command} (h : ¬ IllegalCommand s c) :
    ∃ i, decodeCommand mode c = .instr i ∧ i.operandsLegal = true ∧
      ∀ slot, slotOperand i = some slot → slot.toNat < s.nmotor := by
  simp only [IllegalCommand, not_or] at h
  obtain ⟨hop, hslot, hcode, hwidth, hraw⟩ := h
  have hlegal : OperandsLegal (decodeCommand mode c) := by
    refine decodeCommand_operandsLegal mode (fun hcodec => ?_) (fun hqdec => ?_) fun hsetmode => ?_
    · have hnot : illegalWidth (lowByte c.a3) = false :=
        Bool.eq_false_iff.2 fun hillegal => hwidth ⟨hcodec, illegalWidth_iff.1 hillegal⟩
      simpa [illegalWidth_eq_not_legalWidth] using hnot
    · exact decide_eq_true (Nat.not_lt.1 fun hlt => hraw ⟨hqdec, hlt⟩)
    · exact Nat.not_lt.1 fun hlt => hcode ⟨hsetmode, hlt⟩
  have legal {i : Instr} (hdec : decodeCommand mode c = .instr i) : i.operandsLegal = true := by
    rwa [hdec] at hlegal
  by_cases hqenc : c.op = 0x01
  · have hdec := decodeCommand_qenc mode hqenc
    exact ⟨_, hdec, legal hdec, fun slot hnames => by cases hnames⟩
  by_cases hqdec : c.op = 0x02
  · have hdec := decodeCommand_qdec mode hqdec
    exact ⟨_, hdec, legal hdec, fun slot hnames => by cases hnames⟩
  obtain ⟨i, hdec, hnames⟩ := decodeCommand_names_slot mode hop hqenc hqdec
  refine ⟨i, hdec, legal hdec, fun slot hslot' => ?_⟩
  obtain rfl := Option.some.inj (hnames.symm.trans hslot')
  exact Nat.not_le.1 fun hle => hslot ⟨hop, hqenc, hqdec, hle⟩

/-- Settles O3: the word names an operation with legal operands on a slot that is there, which completes unrefused. -/
theorem legalCommandsAreNotRefused : Obligations.LegalCommandsAreNotRefused := by
  intro s c txFail rest hin hrst hreg hlegal
  obtain ⟨i, hdec, hoperands, hslot⟩ := decodeCommand_of_legal (portMode s (.cmd c)) hlegal
  obtain ⟨hid, -⟩ := decodeCommand_slot hdec
  let s' := takeTransaction s rest txFail
  have hpresent (hnames : (slotOperand i).isSome = true) : s'.recordOf (namedSlot s' i) ≠ none := by
    obtain ⟨slot, hnames⟩ := Option.isSome_iff_exists.1 hnames
    rw [namedSlot_of_slotOperand hnames]
    exact (List.getElem?_eq_getElem (hslot slot hnames)).trans_ne (Option.some_ne_none _)
  obtain ⟨k, hk⟩ := completion_command_exists (s'.recordOf (namedSlot s' i)) hid (p := s'.par) hreg
  obtain ⟨hill, hresult⟩ := (completion_command hid hk).not_refused hoperands hpresent
  obtain ⟨hillBit, -, -⟩ := k.response_bits txFail
  exact ⟨_, k.response txFail, (step_eq_exec hin hrst hdec).trans (exec_of_completion hk), rfl, hillBit.trans hill, hresult⟩

end Sys2Proof.Machine
end

section
/-! SUPPORT. Transactions on different slots (60_exceptions.md R222): a transaction is a function of its word, the parameters
and the record of the slot its word names, so two that name different slots do not see each other. -/

namespace Sys2Proof.Machine

/-! ## The completion of a word -/

/-- What the transaction of a word does; `CTRL` is read in the mode of the slot's record (R93 (a)). -/
def wordCompletion (p : Params) (record : Option Motor) (w : PortWord) : Option Completion :=
  match decode ((record.map Motor.mode).getD .mit) w with
  | .instr i => completion p record i
  | .rejected (.unassignedOp _) => some .refused
  | .rejected (.wrongLength _) => some .dropped

theorem decode_portMode (s : State) (w : PortWord) :
    decode (portMode s w) w = decode (((s.recordOf (wordSlot s w)).map Motor.mode).getD .mit) w := by
  cases w <;> rfl

/-- The operation of a word acts on the slot of the word. -/
theorem actsOn_wordSlot {mode : Mode} {w : PortWord} {i : Instr} (h : decode mode w = .instr i) (s : State) :
    ActsOn s i (wordSlot s w) := by
  cases w with
  | cmd c =>
    obtain ⟨hid, hslot⟩ := decodeCommand_slot h
    refine ⟨fun operand hoperand => ?_, fun rxId hrx => ?_⟩
    · rcases hslot with hslot | hslot <;> cases hslot.symm.trans hoperand
      rfl
    · cases hid.symm.trans hrx
  | rx f =>
    obtain ⟨hslot, hid, -⟩ := decodeFrame_id h
    refine ⟨fun operand hoperand => ?_, fun rxId hrx => ?_⟩
    · cases hslot.symm.trans hoperand
    · cases hid.symm.trans hrx
      rfl

/-- The step of an accepted transaction, refused and dropped ones among them. -/
theorem step_eq_answerOf {s : State} {w : PortWord} {txFail : Bool} {rest : List Event}
    (hin : s.inputs = .transaction w txFail :: rest) (hrst : s.rst = false) : step s =
      answerOf (wordSlot s w) (takeTransaction s rest txFail)
        (wordCompletion s.par (s.recordOf (wordSlot s w)) w) := by
  rw [wordCompletion, ← decode_portMode]
  cases hdec : decode (portMode s w) w with
  | rejected e =>
    rw [step_eq_rejectWord hin hrst hdec]
    cases e <;> rfl
  | instr i =>
    rw [step_eq_exec hin hrst hdec]
    have hacts : ActsOn (takeTransaction s rest txFail) i (wordSlot s w) := by
      have h := actsOn_wordSlot hdec (takeTransaction s rest txFail)
      cases w <;> exact h
    exact exec_eq_answerOf hacts

/-- The transaction of a word that names slot `k`. -/
theorem step_completes {s t : State} {w : PortWord} {txFail : Bool} {rest : List Event} {k : Nat}
    (hin : s.inputs = .transaction w txFail :: rest) (hrst : s.rst = false) (hslot : wordSlot s w = some k)
    (h : step s = .next t) : ∃ c, wordCompletion s.par s.motors[k]? w = some c ∧
      t = c.perform (some k) (takeTransaction s rest txFail) := by
  rw [step_eq_answerOf hin hrst, hslot] at h
  exact answerOf_eq_next h

/-! ## Two transactions -/

/-- The slot of a word is read from the parameters and the configuration inputs (R7). -/
theorem SameConstants.wordSlot_eq {s t : State} (h : SameConstants s t) (w : PortWord) : wordSlot t w = wordSlot s w := by
  cases w with
  | cmd c => rfl
  | rx f => exact rxSlot_congr h.par h.cfgs f.id

/-- Of two transactions on different slots, the second finds the record of its slot as the first found it. -/
theorem steps_complete {s s₁ s₂ : State} {x y : PortWord} {a b : Bool} {k l : Nat} (hrst : s.rst = false)
    (hin : s.inputs = [.transaction x a, .transaction y b]) (hx : wordSlot s x = some k) (hy : wordSlot s y = some l)
    (hkl : k ≠ l) (h₁ : step s = .next s₁) (h₂ : step s₁ = .next s₂) :
    ∃ c d, wordCompletion s.par s.motors[k]? x = some c ∧ wordCompletion s.par s.motors[l]? y = some d ∧
      s₁.resp = some (c.response a) ∧ s₂.resp = some (d.response b) ∧
      s₂.motors = d.motors (some l) (c.motors (some k) s.motors) ∧ s₂.par = s.par := by
  obtain ⟨c, hc, hs₁⟩ := step_completes hin hrst hx h₁
  have hpar : s₁.par = s.par := by rw [hs₁]; rfl
  have hrst₁ : s₁.rst = false := by rw [hs₁]; exact hrst
  have hin₁ : s₁.inputs = [.transaction y b] := by rw [hs₁]; rfl
  have hrecord : s₁.motors[l]? = s.motors[l]? :=
    otherSlotsAreUntouched.2 s s₁ x a _ hin hrst h₁ l fun hl => hkl (Option.some.inj (hx.symm.trans hl))
  have hy₁ : wordSlot s₁ y = some l := by
    rcases step_releases_or_sameConstants h₁ with ⟨cfgs, rest, hrelease, -⟩ | hsame
    · cases hin.symm.trans hrelease
    · exact (hsame.wordSlot_eq y).trans hy
  obtain ⟨d, hd, rfl⟩ := step_completes hin₁ hrst₁ hy₁ h₂
  rw [hpar, hrecord] at hd
  refine ⟨c, d, hc, hd, by rw [hs₁]; rfl, rfl, ?_, hpar⟩
  change d.motors (some l) s₁.motors = _
  rw [hs₁]
  rfl

/-- Settles O48: in either order each transaction completes as it does in `s`, and their writes commute. -/
theorem transactionsOnDifferentSlotsCommute : Obligations.TransactionsOnDifferentSlotsCommute := by
  intro s x y a b k l s₁ s₂ t₁ t₂ hrst hx hy hkl hs₁ hs₂ ht₁ ht₂
  have slot (w : PortWord) (inputs : List Event) : wordSlot { s with inputs := inputs } w = wordSlot s w :=
    SameConstants.wordSlot_eq (.of_motors_eq rfl rfl) w
  obtain ⟨c, d, hc, hd, hresp₁, hresp₂, hmotors, hpar⟩ :=
    steps_complete (s := { s with inputs := [.transaction x a, .transaction y b] }) hrst rfl ((slot x _).trans hx)
      ((slot y _).trans hy) hkl hs₁ hs₂
  obtain ⟨d', c', hd', hc', hresp₁', hresp₂', hmotors', hpar'⟩ :=
    steps_complete (s := { s with inputs := [.transaction y b, .transaction x a] }) hrst rfl ((slot y _).trans hy)
      ((slot x _).trans hx) hkl.symm ht₁ ht₂
  obtain rfl : c' = c := Option.some.inj (hc'.symm.trans hc)
  obtain rfl : d' = d := Option.some.inj (hd'.symm.trans hd)
  exact ⟨hmotors.trans ((Completion.motors_comm c' d' hkl _).trans hmotors'.symm), hpar.trans hpar'.symm,
    hresp₁.trans hresp₂'.symm, hresp₂.trans hresp₁'.symm⟩

end Sys2Proof.Machine
end
